-- ==== Sys2Proof/Word.lean ====
section
/-! DEFINITION. The word types of the CFE: bytes, 32-bit words and groups of four bytes (spec 00_scope R8, R9). -/

namespace Sys2Proof

/-- A byte (R9: "A byte is 8 bits"). -/
abbrev Byte := BitVec 8

/-- A 32-bit value: a command word, a CRC remainder, a length field (R5 `CRC_WIDTH`, `LEN_WIDTH`). -/
abbrev Word := BitVec 32

/-- Four bytes in sequence order, `b0` first on the wire: a type code, a lookup key, a 32-bit wire field (R10, R105). -/
structure Quad where
  b0 : Byte
  b1 : Byte
  b2 : Byte
  b3 : Byte
  deriving DecidableEq, Repr

end Sys2Proof
end

