-- ==== Sys2Proof/Syntax.lean ====
section
/-! DEFINITION. The 30 commands of the CFE (spec 30_encoding R102, opcode_table.json), one constructor per row.
CRC.BYTE is the only command with an immediate (R99). -/

namespace Sys2Proof

/-- A command of the engine (R102). The high nibble of an opcode is the family. -/
inductive Instr where
  /-- SYS.NOP (R270) -/
  | sysNop
  /-- SYS.RESET (R271) -/
  | sysReset
  /-- CRC.INIT (R137) -/
  | crcInit
  /-- CRC.BYTE imm8 (R138) -/
  | crcByte (imm8 : Byte)
  /-- CRC.BUF (R139) -/
  | crcBuf
  /-- CRC.FIN (R140) -/
  | crcFin
  /-- CRC.CHECK (R141) -/
  | crcCheck
  /-- TC.SET4 (R169) -/
  | tcSet4
  /-- TC.SETS (R170) -/
  | tcSets
  /-- TC.BYTES (R171) -/
  | tcBytes
  /-- TC.ISCRIT (R172) -/
  | tcIsCrit
  /-- TC.ISPUB (R173) -/
  | tcIsPub
  /-- TC.ISRSV (R174) -/
  | tcIsRsv
  /-- TC.ISSAFE (R175) -/
  | tcIsSafe
  /-- TC.ISVALID (R176) -/
  | tcIsValid
  /-- TC.RENDER (R177) -/
  | tcRender
  /-- CH.NEW (R210) -/
  | chNew
  /-- CH.PARSE (R211) -/
  | chParse
  /-- CH.EMIT (R212) -/
  | chEmit
  /-- CH.LEN (R213) -/
  | chLen
  /-- CH.DATA (R214) -/
  | chData
  /-- CH.TYPE (R215) -/
  | chType
  /-- CH.CRC (R216) -/
  | chCrc
  /-- DOC.PARSE (R245) -/
  | docParse
  /-- DOC.COUNT (R246) -/
  | docCount
  /-- DOC.GET (R247) -/
  | docGet
  /-- DOC.FIND (R248) -/
  | docFind
  /-- DOC.APPEND (R249) -/
  | docAppend
  /-- DOC.REMOVE (R250) -/
  | docRemove
  /-- DOC.EMIT (R251) -/
  | docEmit
  deriving DecidableEq, Repr

end Sys2Proof
end

