-- ==== Sys2Proof/Decode.lean ====
section
/-! DEFINITION. Command words to commands and back (spec 30_encoding R99 to R103). The decoder is total on every
value the host can write to CMD and rejects by name; the encoder is written from the same map. -/

namespace Sys2Proof

/-- `v[hi:lo]` (R8: `floor(v / 2^lo) mod 2^(hi-lo+1)`). -/
def bitField (v hi lo : Nat) : Nat := v / 2 ^ lo % 2 ^ (hi - lo + 1)

/-- Why a value written to CMD is an illegal command word (R103). Each of them completes with BadCommand. -/
inductive DecodeError where
  /-- a bit above bit 31 is set -/
  | bitsAbove31
  /-- the opcode field is not one of the 30 values of R102 -/
  | unknownOpcode
  /-- bits 23:8 are not all zero -/
  | reservedBits
  /-- bits 7:0 are not all zero and the opcode is not 0x11 -/
  | strayImmediate
  deriving DecidableEq, Repr

/-- The opcode map read from the left (R102); `imm` is the command word's imm8 field. -/
def commandOf (opcode : Nat) (imm : Byte) : Option Instr :=
  match opcode with
  | 0x00 => some .sysNop
  | 0x01 => some .sysReset
  | 0x10 => some .crcInit
  | 0x11 => some (.crcByte imm)
  | 0x12 => some .crcBuf
  | 0x13 => some .crcFin
  | 0x14 => some .crcCheck
  | 0x20 => some .tcSet4
  | 0x21 => some .tcSets
  | 0x22 => some .tcBytes
  | 0x23 => some .tcIsCrit
  | 0x24 => some .tcIsPub
  | 0x25 => some .tcIsRsv
  | 0x26 => some .tcIsSafe
  | 0x27 => some .tcIsValid
  | 0x28 => some .tcRender
  | 0x30 => some .chNew
  | 0x31 => some .chParse
  | 0x32 => some .chEmit
  | 0x33 => some .chLen
  | 0x34 => some .chData
  | 0x35 => some .chType
  | 0x36 => some .chCrc
  | 0x40 => some .docParse
  | 0x41 => some .docCount
  | 0x42 => some .docGet
  | 0x43 => some .docFind
  | 0x44 => some .docAppend
  | 0x45 => some .docRemove
  | 0x46 => some .docEmit
  | _ => none

/-- The command a value written to CMD stands for (R99, R103). -/
def decode (w : Nat) : Except DecodeError Instr :=
  if 2 ^ 32 ≤ w then .error .bitsAbove31
  else
    match commandOf (bitField w 31 24) (BitVec.ofNat 8 (bitField w 7 0)) with
    | none => .error .unknownOpcode
    | some i =>
      if bitField w 23 8 ≠ 0 then .error .reservedBits
      else if bitField w 7 0 ≠ 0 ∧ bitField w 31 24 ≠ 0x11 then .error .strayImmediate
      else .ok i

/-- The opcode of a command (R102). -/
def Instr.opcode : Instr → Nat
  | .sysNop => 0x00
  | .sysReset => 0x01
  | .crcInit => 0x10
  | .crcByte _ => 0x11
  | .crcBuf => 0x12
  | .crcFin => 0x13
  | .crcCheck => 0x14
  | .tcSet4 => 0x20
  | .tcSets => 0x21
  | .tcBytes => 0x22
  | .tcIsCrit => 0x23
  | .tcIsPub => 0x24
  | .tcIsRsv => 0x25
  | .tcIsSafe => 0x26
  | .tcIsValid => 0x27
  | .tcRender => 0x28
  | .chNew => 0x30
  | .chParse => 0x31
  | .chEmit => 0x32
  | .chLen => 0x33
  | .chData => 0x34
  | .chType => 0x35
  | .chCrc => 0x36
  | .docParse => 0x40
  | .docCount => 0x41
  | .docGet => 0x42
  | .docFind => 0x43
  | .docAppend => 0x44
  | .docRemove => 0x45
  | .docEmit => 0x46

/-- The imm8 field of a command's word: 0 but for CRC.BYTE (R99). -/
def Instr.imm : Instr → Byte
  | .crcByte b => b
  | .sysNop | .sysReset | .crcInit | .crcBuf | .crcFin | .crcCheck => 0
  | .tcSet4 | .tcSets | .tcBytes | .tcIsCrit | .tcIsPub | .tcIsRsv | .tcIsSafe | .tcIsValid | .tcRender => 0
  | .chNew | .chParse | .chEmit | .chLen | .chData | .chType | .chCrc => 0
  | .docParse | .docCount | .docGet | .docFind | .docAppend | .docRemove | .docEmit => 0

/-- The command word of a command (R100: `op << 24`; R101: `0x11000000 + imm8`). -/
def encode (i : Instr) : Word := BitVec.ofNat 32 (i.opcode * 2 ^ 24 + i.imm.toNat)

/-- The decoder on an instruction numbered as opcode_table.json numbers it. A command is one 32-bit word, delivered
whole by the host's write to CMD (R99), so there is nothing to lay out in memory. -/
def decodeTableWord (nbits w : Nat) : Option Instr :=
  if w < 2 ^ nbits then
    match decode w with
    | .ok i => some i
    | .error _ => none
  else none

end Sys2Proof
end

