-- ==== Sys2Proof/Machine/Bytes.lean ====
section
/-! DEFINITION. Byte order (spec 00_scope R10, 30_encoding R105): the 32-bit fields are big-endian, and a 4-byte group
packs into a number the same way. -/

namespace Sys2Proof

/-- The four bytes in sequence order, first on the wire first (R9). -/
def Quad.bytes (q : Quad) : List Byte := [q.b0, q.b1, q.b2, q.b3]

/-- `be32(v)`: most significant byte first (R10). -/
def be32 (v : Word) : Quad :=
  ⟨v.extractLsb' 24 8, v.extractLsb' 16 8, v.extractLsb' 8 8, v.extractLsb' 0 8⟩

/-- `from_be32(b)` = `b[0]*2^24 + b[1]*2^16 + b[2]*2^8 + b[3]` (R10). -/
def fromBe32 (q : Quad) : Word :=
  BitVec.ofNat 32 (q.b0.toNat * 2 ^ 24 + q.b1.toNat * 2 ^ 16 + q.b2.toNat * 2 ^ 8 + q.b3.toNat)

/-- `s[off..off+4)`. Callers test the bound first (R201), so the default byte is never read there. -/
def quadAt (s : List Byte) (off : Nat) : Quad :=
  ⟨s.getD off 0, s.getD (off + 1) 0, s.getD (off + 2) 0, s.getD (off + 3) 0⟩

end Sys2Proof
end

