-- ==== Sys2Proof/Config.lean ====
section
/-! DEFINITION. What one build of the CFE fixes (spec 00_scope R5, the OPEN parameters) and the one value the spec
leaves unstated. The fixed constants (length ceiling, signature, polynomial) stand with the functions that use them. -/

namespace Sys2Proof

/-- The OPEN parameters of R5. `none` is the "unbounded" that R5 allows for the two document capacities.
They are arguments of the model: the state carries them and no step changes them (log entry 1). -/
structure Config where
  /-- `AW`: width in bits of addresses and of A0, A1, RES, EADDR, OPTR. -/
  aw : Nat
  /-- `IMEM_SIZE`: bytes of input memory. -/
  imemSize : Nat
  /-- `OMEM_SIZE`: bytes of output memory. -/
  omemSize : Nat
  /-- `CH_DATA_MAX`: largest data length of a chunk held in CH or DOC. -/
  chDataMax : Nat
  /-- `DOC_CHUNKS_MAX`: largest number of chunks DOC holds. -/
  docChunksMax : Option Nat
  /-- `DOC_DATA_MAX`: largest sum of data lengths over the chunks of DOC. -/
  docDataMax : Option Nat
  deriving DecidableEq, Repr

/-- The build `State.reset` names: the suggested values of R5 and the memory sizes of 95_test_vectors.
DESIGN CHOICE (log entry 1): the parameters are OPEN, statements quantify over them. -/
def Config.suggested : Config :=
  { aw := 64, imemSize := 4096, omemSize := 4096, chDataMax := 2 ^ 32 - 1, docChunksMax := none, docDataMax := none }

/-- FREE VALUE: what an AW-bit RES holds when a chunk count or index `n` does not fit AW bits, which the spec does not
state (possible only where DOC_CHUNKS_MAX does not bound the count below 2^AW). DESIGN CHOICE (log entry 7). -/
opaque Config.unstatedCount (aw n : Nat) : BitVec aw

end Sys2Proof
end

