-- ==== Sys2Proof/Machine/State.lean ====
section
/-! DEFINITION. The whole state of the CFE as plain data (spec 10_state R20), the completion codes, the host's
operations, and the state after reset (R37). -/

namespace Sys2Proof.Machine

/-- A byte memory: (address, byte) pairs with addresses strictly rising and no byte equal to what an unlisted address
reads as (`Memory.wf`, Machine/Ops.lean). IMEM and OMEM are two of them (R60). -/
abbrev Memory := List Host.Cell

/-- The completion codes (R110). Their numbers are `Code.number` (Machine/Flags.lean). Codes 12 to 255 are reserved
and never produced, so they have no name here. -/
inductive Code where
  | ok
  | invalidTypeCode
  | truncatedChunk
  | oversizedChunk
  | crcMismatch
  | badSignature
  | chunkNotFound
  /-- Reserved, never produced by the hardware (R110, R281). -/
  | notUtf8
  | badCommand
  | badOperand
  | noValue
  | storeFull
  deriving DecidableEq, Repr

/-- A chunk value (R190): type code, data, the 32-bit length and the 32-bit checksum. What makes one valid (R191) is
`Chunk.Valid` (Safety.lean). -/
structure Chunk where
  typ : Quad
  data : List Byte
  len : Word
  crc : Word
  deriving DecidableEq, Repr

/-- What the outside world can do to the engine (R272 to R274, R320). A host write of OMEM is no operation (R274). -/
inductive HostOp where
  /-- `WR(n, v)`: write register n (R272); n = 0 is CMD and issues the command `v` (R275). -/
  | wr (n v : Nat)
  /-- `RD(n)`: read register n (R273). -/
  | rd (n : Nat)
  /-- `IMEM[a] := bytes` (R274). -/
  | writeImem (a : Nat) (bytes : List Byte)
  /-- Read `n` bytes of IMEM back from address `a` (R274). -/
  | readImem (a n : Nat)
  /-- `OMEM[a..b)` (R274). -/
  | readOmem (a b : Nat)
  /-- The hardware reset (R320). It leaves both memories with unspecified contents: the event brings the contents
  (any value) with it, byte i for address i (log entry 6). -/
  | hardReset (imem omem : List Byte)
  deriving DecidableEq, Repr

/-- What a host read returned. -/
inductive Answer where
  | value (v : Nat)
  | bytes (bs : List Byte)
  deriving DecidableEq, Repr

/-- The machine. An AW-bit register is a natural below 2^AW (R8, log entry 2); that they are is `State.Inv`. -/
structure State where
  /-- The OPEN parameters of this build (R5, R35): never changed by a step. -/
  cfg : Config
  /-- STATUS.CODE (R25). TV, CV and DV are views of `t`, `ch`, `doc` (Machine/Flags.lean). -/
  code : Code
  /-- Host register 2 (R22). -/
  a0 : Nat
  /-- Host register 3 (R22). -/
  a1 : Nat
  /-- Host register 4 (R23). -/
  res : Nat
  /-- Host register 5 (R26). -/
  eaddr : Nat
  /-- Host register 6 (R27). -/
  optr : Nat
  /-- Host register 7 (R28). -/
  crcacc : Word
  /-- T (R30): `none` is T.tv = 0. -/
  t : Option Quad
  /-- CH (R31): `none` is CH.cv = 0. -/
  ch : Option Chunk
  /-- DOC (R32): `none` is DOC.dv = 0; index 0 is the first chunk after the signature. -/
  doc : Option (List Chunk)
  /-- Input memory (R60, R61). -/
  imem : Memory
  /-- Output memory (R60, R62). -/
  omem : Memory
  /-- The MODEL's own: the host operations still to come, the next one first (R24, log entry 3). -/
  pending : List HostOp
  /-- The MODEL's own: what the host's reads returned, newest first (R35, log entry 3). -/
  answers : List Answer
  deriving DecidableEq, Repr

/-- Why the machine would stop with a fault: there is no reason. An error of the CFE is a completion code, not a
fault (R280), and no behaviour of it is stuck (93_implementation_defined section 1). -/
inductive Fault where
  deriving DecidableEq, Repr

/-- Why a step has no meaning. All of these are safe: the model stops where the spec gives no behaviour. -/
inductive Refusal where
  /-- Raised only by an arm of `exec` whose instruction has no meaning yet. None is left. Safe. -/
  | notModelled (mnemonic : String)
  /-- Raised by `step` when the host has issued nothing: the engine "has no step unless the host issues a command"
  (R6). Safe. -/
  | noHostOperation
  /-- Raised by a host register access naming a register outside 0 to 7 (R38). Safe. -/
  | noSuchRegister (n : Nat)
  /-- Raised by `WR(n, v)` when v is not an AW-bit value (R272). Safe. -/
  | valueTooWide
  /-- Raised by a host access outside IMEM or OMEM (R274). Safe. -/
  | outsideMemory
  deriving DecidableEq, Repr

/-- The state right after a hardware reset of a build `cfg`, with any launch contents of the two memories: every value
is R37's. Both memories are "unspecified" there, so they are arguments. -/
def State.launch (cfg : Config) (imem omem : Memory) : State :=
  { cfg, code := .ok, a0 := 0, a1 := 0, res := 0, eaddr := 0, optr := 0, crcacc := 0xFFFFFFFF,
    t := none, ch := none, doc := none, imem, omem, pending := [], answers := [] }

/-- The state after reset: R37, with the suggested build (log entry 1), no listed memory (log entry 5) and a host that
has issued nothing (log entry 3). -/
def State.reset : State := State.launch Config.suggested [] []

end Sys2Proof.Machine
end

