-- ==== Sys2Proof/Machine/Flags.lean ====
section
/-! DEFINITION. Everything the spec calls a flag (spec 10_state R33): the numbers of the completion codes (R110), the
STATUS word and its views (R25), the letter test (41_typecode R160) and the five type-code properties (R162 to R166). -/

namespace Sys2Proof.Machine

/-- The number of a completion code (R110). -/
def Code.number : Code → Nat
  | .ok => 0
  | .invalidTypeCode => 1
  | .truncatedChunk => 2
  | .oversizedChunk => 3
  | .crcMismatch => 4
  | .badSignature => 5
  | .chunkNotFound => 6
  | .notUtf8 => 7
  | .badCommand => 8
  | .badOperand => 9
  | .noValue => 10
  | .storeFull => 11

/-- The refusals (R282): codes 8 to 11, this spec's own. -/
def Code.isRefusal : Code → Bool
  | .badCommand | .badOperand | .noValue | .storeFull => true
  | .ok | .invalidTypeCode | .truncatedChunk | .oversizedChunk | .crcMismatch | .badSignature | .chunkNotFound
  | .notUtf8 => false

/-- STATUS.TV (R25): T holds a validated type code. -/
def State.tv (s : State) : Bool := s.t.isSome

/-- STATUS.CV (R25): CH holds a chunk. -/
def State.cv (s : State) : Bool := s.ch.isSome

/-- STATUS.DV (R25): DOC holds a document. -/
def State.dv (s : State) : Bool := s.doc.isSome

/-- STATUS (R25): CODE in bits 7:0, TV bit 8, CV bit 9, DV bit 10, the rest zero. -/
def State.status (s : State) : Nat :=
  s.code.number + s.tv.toNat * 2 ^ 8 + s.cv.toNat * 2 ^ 9 + s.dv.toNat * 2 ^ 10

/-- `is_letter(b)` (R160). -/
def isLetter (b : Byte) : Bool :=
  decide (0x41 ≤ b.toNat ∧ b.toNat ≤ 0x5A) || decide (0x61 ≤ b.toNat ∧ b.toNat ≤ 0x7A)

/-- All four bytes are letters: the group is a type code (R161). -/
def isTypeCode (q : Quad) : Bool := isLetter q.b0 && isLetter q.b1 && isLetter q.b2 && isLetter q.b3

/-- `is_critical` (R162). -/
def isCritical (q : Quad) : Bool := !q.b0.getLsbD 5

/-- `is_public` (R163). -/
def isPublic (q : Quad) : Bool := !q.b1.getLsbD 5

/-- `is_reserved_bit_valid` (R164). -/
def isReservedBitValid (q : Quad) : Bool := !q.b2.getLsbD 5

/-- `is_safe_to_copy` (R165): the one property that is true when bit 5 is set. -/
def isSafeToCopy (q : Quad) : Bool := q.b3.getLsbD 5

/-- `is_valid` (R166): the reserved bit and nothing else. -/
def isValid (q : Quad) : Bool := isReservedBitValid q

end Sys2Proof.Machine
end

