-- ==== Sys2Proof/Machine/Framing.lean ====
section
/-! DEFINITION. The chunk framer's functions (spec 42_chunk_framer R192, R193, R196): serialize, construct, parse. -/

namespace Sys2Proof.Machine

/-- LEN_CEILING (R5, decision D9): the largest declared length the deserializer accepts. -/
def lenCeiling : Nat := 2 ^ 31

/-- `chunk_bytes(c)` (R192). -/
def chunkBytes (c : Chunk) : List Byte := (be32 c.len).bytes ++ c.typ.bytes ++ c.data ++ (be32 c.crc).bytes

/-- `chunk_new(t, d)` (R193). -/
def chunkNew (t : Quad) (d : List Byte) : Chunk :=
  { typ := t, data := d, len := BitVec.ofNat 32 d.length, crc := crc32 (t.bytes ++ d) }

/-- `parse_record(s)` (R196): the steps in their order, the first failing one decides. A success gives the chunk and
the number of bytes consumed. -/
def parseRecord (s : List Byte) : Except Code (Chunk × Nat) :=
  if s.length < 12 then .error .truncatedChunk
  else
    let len := fromBe32 (quadAt s 0)
    if lenCeiling < len.toNat then .error .oversizedChunk
    else
      let t := quadAt s 4
      if !isTypeCode t then .error .invalidTypeCode
      else if s.length < 8 + len.toNat then .error .truncatedChunk
      else if s.length < 12 + len.toNat then .error .truncatedChunk
      else
        let d := (s.drop 8).take len.toNat
        let c := crc32 (t.bytes ++ d)
        if c ≠ fromBe32 (quadAt s (8 + len.toNat)) then .error .crcMismatch
        else .ok ({ typ := t, data := d, len := len, crc := c }, 12 + len.toNat)

end Sys2Proof.Machine
end

