-- ==== Sys2Proof/Machine/Ops.lean ====
section
/-! DEFINITION. The named operations over registers and memories: field updates, completing a command (spec 60_exceptions
R280, R283), reading and writing bytes (20_memory R60 to R66), and the output operation (R65, R66). -/

namespace Sys2Proof.Machine

/-- What a command or a host operation ends in. -/
abbrev Result := Host.Outcome State Fault Refusal

/-! ### Field updates -/

def State.setCode (s : State) (v : Code) : State := { s with code := v }
def State.setA0 (s : State) (v : Nat) : State := { s with a0 := v }
def State.setA1 (s : State) (v : Nat) : State := { s with a1 := v }
def State.setRes (s : State) (v : Nat) : State := { s with res := v }
def State.setEaddr (s : State) (v : Nat) : State := { s with eaddr := v }
def State.setOptr (s : State) (v : Nat) : State := { s with optr := v }
def State.setCrcacc (s : State) (v : Word) : State := { s with crcacc := v }
def State.setT (s : State) (v : Option Quad) : State := { s with t := v }
def State.setCh (s : State) (v : Option Chunk) : State := { s with ch := v }
def State.setDoc (s : State) (v : Option (List Chunk)) : State := { s with doc := v }
def State.setImem (s : State) (v : Memory) : State := { s with imem := v }
def State.setOmem (s : State) (v : Memory) : State := { s with omem := v }
def State.setPending (s : State) (v : List HostOp) : State := { s with pending := v }
def State.setAnswers (s : State) (v : List Answer) : State := { s with answers := v }

/-! ### Completing a command -/

/-- `complete OK` (R11): the command ends with code OK after the writes already made in `s`. -/
def completeOk (s : State) : Result := .next (s.setCode .ok)

/-- `raise c` (R11, R283 item 1): `STATUS.CODE <- c`, `RES <- 0`, and nothing else. A command whose rule lists further
changes (R283 item 3) makes them in `s` first. This is the machine's only "exception entry" (R288): no control
transfer, nothing saved; and there is no return from it (R289). -/
def raise (c : Code) (s : State) : Result := .next ((s.setCode c).setRes 0)

/-! ### Memory -/

/-- What an address that is not listed reads as. The spec gives a byte nobody has written an unspecified value (R37,
R61, R62). DESIGN CHOICE (log entry 5), unsafe only in a claim about one named memory such as the reset state's. -/
def unlistedByte : Byte := 0

/-- The byte at an address (R60). -/
def Memory.readByte : Memory → Nat → Byte
  | [], _ => unlistedByte
  | (k, b) :: m, a => if k = a then b else Memory.readByte m a

/-- Write one byte, keeping the canonical form. -/
def Memory.writeByte : Memory → Nat → Byte → Memory
  | [], a, v => if v = unlistedByte then [] else [(a, v)]
  | (k, b) :: m, a, v =>
    if k < a then (k, b) :: Memory.writeByte m a v
    else if k = a then (if v = unlistedByte then m else (a, v) :: m)
    else (if v = unlistedByte then (k, b) :: m else (a, v) :: (k, b) :: m)

/-- `MemRead(a, n)` (R11, R63): the n bytes at `a, a+1, ..., a+n-1`. -/
def Memory.readBytes (m : Memory) : Nat → Nat → List Byte
  | _, 0 => []
  | a, n + 1 => m.readByte a :: Memory.readBytes m (a + 1) n

/-- `MemWrite(a, n, v)` with n the length of v (R11, R65): byte i goes to address `a+i`, in increasing order. -/
def Memory.writeBytes : Memory → Nat → List Byte → Memory
  | m, _, [] => m
  | m, a, b :: v => Memory.writeBytes (m.writeByte a b) (a + 1) v

/-- Addresses strictly rising from `lo`, and no listed byte equal to what an unlisted address reads as. -/
def Memory.wfFrom : Nat → Memory → Bool
  | _, [] => true
  | lo, (k, b) :: m => decide (lo ≤ k) && decide (b ≠ unlistedByte) && Memory.wfFrom (k + 1) m

/-- The canonical form of a memory. -/
def Memory.wf (m : Memory) : Bool := Memory.wfFrom 0 m

/-- Every listed address exists in a memory of `size` bytes (R60). -/
def Memory.within (m : Memory) (size : Nat) : Bool := m.all fun cell => decide (cell.1 < size)

/-! ### Output -/

/-- The output operation of TC.RENDER, CH.EMIT, CH.DATA and DOC.EMIT (R65, R66): refuse whole when the bytes would pass
OMEM_SIZE, else write them at OPTR, advance OPTR and report the count. -/
def emit (v : List Byte) (s : State) : Result :=
  if s.optr + v.length ≤ s.cfg.omemSize then
    completeOk (((s.setOmem (s.omem.writeBytes s.optr v)).setOptr (s.optr + v.length)).setRes v.length)
  else raise .storeFull s

/-- A chunk count or index as RES holds it: itself where it fits AW bits. Where it does not, which the spec leaves
unstated, the free value `Config.unstatedCount` (log entry 7). -/
def countValue (cfg : Config) (n : Nat) : Nat := if n < 2 ^ cfg.aw then n else (Config.unstatedCount cfg.aw n).toNat

/-- `n > max` for a capacity that may be unbounded (R5). -/
def exceeds (n : Nat) : Option Nat → Bool
  | none => false
  | some max => decide (max < n)

end Sys2Proof.Machine
end

