-- ==== Sys2Proof/Machine/Operands.lean ====
section
/-! DEFINITION. Every operand form of the commands (spec 30_encoding R104 to R106, 20_memory R63, R64): a slice of IMEM,
a strict 32-bit A0, four bytes packed in A0, and the holding registers with their NoValue check (60_exceptions R282).
Each takes the rest of the command as a continuation, so that a failing check ends the command as R283 says. The two
remaining forms need no check: imm8 (in the constructor) and the output pointer (`emit`). -/

namespace Sys2Proof.Machine

/-- The slice (A0, A1) lies in IMEM, the sum taken exactly (R64). -/
def State.sliceInBounds (s : State) : Bool := decide (s.a0 + s.a1 ≤ s.cfg.imemSize)

/-- The bytes of the slice (R63). -/
def State.slice (s : State) : List Byte := s.imem.readBytes s.a0 s.a1

/-- A slice operand: `if a + n > IMEM_SIZE then raise BadOperand`, then the bytes (R63, R64). -/
def withSlice (s : State) (k : List Byte → Result) : Result :=
  if s.sliceInBounds then k s.slice else raise .badOperand s

/-- A strict 32-bit A0: `if A0 >= 2^32 then raise BadOperand` (R106). -/
def withWord (s : State) (k : Word → Result) : Result :=
  if s.a0 < 2 ^ 32 then k (BitVec.ofNat 32 s.a0) else raise .badOperand s

/-- Four bytes packed in a strict 32-bit A0, the first in bits 31:24 (R105, R106). -/
def withPacked (s : State) (k : Quad → Result) : Result := withWord s fun w => k (be32 w)

/-- T as operand: `if T.tv = 0 then raise NoValue`. -/
def withT (s : State) (k : Quad → Result) : Result :=
  match s.t with
  | none => raise .noValue s
  | some b => k b

/-- CH as operand: `if CH.cv = 0 then raise NoValue`. -/
def withCh (s : State) (k : Chunk → Result) : Result :=
  match s.ch with
  | none => raise .noValue s
  | some c => k c

/-- DOC as operand: `if DOC.dv = 0 then raise NoValue`. -/
def withDoc (s : State) (k : List Chunk → Result) : Result :=
  match s.doc with
  | none => raise .noValue s
  | some cs => k cs

end Sys2Proof.Machine
end

