-- ==== Sys2Proof/Machine/ChunkFramer.lean ====
section
/-! DEFINITION. The chunk commands (spec 42_chunk_framer R210 to R216). -/

namespace Sys2Proof.Machine

/-- CH.NEW (R210). -/
def execChNew (s : State) : Result :=
  withT s fun t =>
    withSlice s fun d =>
      if 2 ^ 32 - 1 < s.a1 then raise .badOperand s
      else if s.cfg.chDataMax < s.a1 then raise .storeFull s
      else completeOk ((s.setCh (some (chunkNew t d))).setRes (chunkNew t d).crc.toNat)

/-- CH.PARSE (R211). -/
def execChParse (s : State) : Result :=
  withSlice s fun bytes =>
    match parseRecord bytes with
    | .error code => raise code ((s.setCh none).setEaddr s.a0)
    | .ok (c, k) =>
      if s.cfg.chDataMax < c.len.toNat then raise .storeFull s
      else completeOk ((s.setCh (some c)).setRes k)

/-- CH.EMIT (R212). -/
def execChEmit (s : State) : Result := withCh s fun c => emit (chunkBytes c) s

/-- CH.LEN (R213). -/
def execChLen (s : State) : Result := withCh s fun c => completeOk (s.setRes c.len.toNat)

/-- CH.DATA (R214). -/
def execChData (s : State) : Result := withCh s fun c => emit c.data s

/-- CH.TYPE (R215). -/
def execChType (s : State) : Result := withCh s fun c => completeOk (s.setT (some c.typ))

/-- CH.CRC (R216). -/
def execChCrc (s : State) : Result := withCh s fun c => completeOk (s.setRes c.crc.toNat)

end Sys2Proof.Machine
end

