-- ==== Sys2Proof/Machine/CrcUnit.lean ====
section
/-! DEFINITION. The CRC commands (spec 40_crc R137 to R141). -/

namespace Sys2Proof.Machine

/-- CRC.INIT (R137). -/
def execCrcInit (s : State) : Result := completeOk (s.setCrcacc crcOnes)

/-- CRC.BYTE imm8 (R138). -/
def execCrcByte (imm8 : Byte) (s : State) : Result := completeOk (s.setCrcacc (crcStep s.crcacc imm8))

/-- CRC.BUF (R139). -/
def execCrcBuf (s : State) : Result :=
  withSlice s fun bytes => completeOk (s.setCrcacc (crcUpdate s.crcacc bytes))

/-- CRC.FIN (R140). -/
def execCrcFin (s : State) : Result := completeOk (s.setRes (s.crcacc ^^^ crcOnes).toNat)

/-- CRC.CHECK (R141). -/
def execCrcCheck (s : State) : Result :=
  withWord s fun v => if s.crcacc ^^^ crcOnes = v then completeOk (s.setRes 1) else raise .crcMismatch s

end Sys2Proof.Machine
end

