-- ==== Sys2Proof/Machine/Sequencing.lean ====
section
/-! DEFINITION. The document sequencer's functions (spec 43_document R231 to R238): serialize, parse, look up, remove. -/

namespace Sys2Proof.Machine

/-- SIG (R231, R97). -/
def signature : List Byte := [0x89, 0x50, 0x4E, 0x47, 0x0D, 0x0A, 0x1A, 0x0A]

/-- The records of a chunk sequence laid end to end (R96). -/
def recordsBytes : List Chunk → List Byte
  | [] => []
  | c :: cs => chunkBytes c ++ recordsBytes cs

/-- `doc_bytes(D)` (R232). -/
def docBytes (cs : List Chunk) : List Byte := signature ++ recordsBytes cs

/-- The loop of `doc_parse` (R233) over the bytes from offset `pos` to the end of the buffer. Every turn consumes at
least 12 bytes, so fuel equal to the number of bytes left is never used up before the bytes are
(`docRecords_fuel` in Laws/Sequencing.lean). -/
def docRecords : Nat → Nat → List Byte → Except (Code × Nat) (List Chunk)
  | _, _, [] => .ok []
  | 0, pos, _ :: _ => .error (.truncatedChunk, pos)
  | fuel + 1, pos, b :: rest =>
    match parseRecord (b :: rest) with
    | .error code => .error (code, pos)
    | .ok (c, k) =>
      match docRecords fuel (pos + k) ((b :: rest).drop k) with
      | .error e => .error e
      | .ok cs => .ok (c :: cs)

/-- `doc_parse(s)` (R233): the signature, then records until the buffer is exhausted. -/
def docParse (s : List Byte) : Except (Code × Nat) (List Chunk) :=
  if s.take 8 = signature then docRecords s.length 8 (s.drop 8) else .error (.badSignature, 0)

/-- `find_first(chunks, k)` (R236): the smallest index whose type is the key, with the chunk there. -/
def findFirst : List Chunk → Quad → Option (Nat × Chunk)
  | [], _ => none
  | c :: cs, k =>
    if c.typ = k then some (0, c)
    else
      match findFirst cs k with
      | none => none
      | some (i, d) => some (i + 1, d)

/-- `chunks[0..i) ++ chunks[i+1..m)` (R238). -/
def withoutIndex (cs : List Chunk) (i : Nat) : List Chunk := cs.take i ++ cs.drop (i + 1)

/-- `remove(chunks, k)` (R238): the index and chunk removed and the sequence left, or ChunkNotFound (`none`). -/
def removeFirst (cs : List Chunk) (k : Quad) : Option (Nat × Chunk × List Chunk) :=
  match findFirst cs k with
  | none => none
  | some (i, c) => some (i, c, withoutIndex cs i)

/-- The sum of the `len` fields (R32). -/
def dataTotal : List Chunk → Nat
  | [] => 0
  | c :: cs => c.len.toNat + dataTotal cs

end Sys2Proof.Machine
end

