-- ==== Sys2Proof/Machine/Document.lean ====
section
/-! DEFINITION. The document commands (spec 43_document R245 to R251). -/

namespace Sys2Proof.Machine

/-- A parsed chunk sequence passes one of the capacities (R245): its count, its data total, or one chunk's length. -/
def passesCapacity (cfg : Config) (cs : List Chunk) : Bool :=
  exceeds cs.length cfg.docChunksMax || exceeds (dataTotal cs) cfg.docDataMax
    || cs.any fun c => decide (cfg.chDataMax < c.len.toNat)

/-- DOC.PARSE (R245). -/
def execDocParse (s : State) : Result :=
  withSlice s fun bytes =>
    match docParse bytes with
    | .error (code, off) => raise code ((s.setDoc none).setEaddr (s.a0 + off))
    | .ok cs =>
      if passesCapacity s.cfg cs then raise .storeFull s
      else completeOk ((s.setDoc (some cs)).setRes cs.length)

/-- DOC.COUNT (R246). -/
def execDocCount (s : State) : Result :=
  withDoc s fun cs => completeOk (s.setRes (countValue s.cfg cs.length))

/-- DOC.GET (R247). -/
def execDocGet (s : State) : Result :=
  withDoc s fun cs =>
    match cs[s.a0]? with
    | none => raise .badOperand s
    | some c => completeOk ((s.setCh (some c)).setRes c.len.toNat)

/-- DOC.FIND (R248): not found is no error. -/
def execDocFind (s : State) : Result :=
  withDoc s fun cs =>
    withPacked s fun key =>
      match findFirst cs key with
      | some (i, c) => completeOk ((s.setCh (some c)).setRes (countValue s.cfg i))
      | none => completeOk ((s.setCh none).setRes (countValue s.cfg cs.length))

/-- DOC.APPEND (R249): the chunk moves, so CH is left holding no value. -/
def execDocAppend (s : State) : Result :=
  withDoc s fun cs =>
    withCh s fun c =>
      if exceeds (cs.length + 1) s.cfg.docChunksMax || exceeds (dataTotal cs + c.len.toNat) s.cfg.docDataMax then
        raise .storeFull s
      else
        completeOk (((s.setDoc (some (cs ++ [c]))).setCh none).setRes (countValue s.cfg (cs.length + 1)))

/-- DOC.REMOVE (R250). -/
def execDocRemove (s : State) : Result :=
  withDoc s fun cs =>
    withPacked s fun key =>
      match removeFirst cs key with
      | none => raise .chunkNotFound (s.setCh none)
      | some (i, c, rest) =>
        completeOk (((s.setCh (some c)).setDoc (some rest)).setRes (countValue s.cfg i))

/-- DOC.EMIT (R251). -/
def execDocEmit (s : State) : Result := withDoc s fun cs => emit (docBytes cs) s

end Sys2Proof.Machine
end

