-- ==== Sys2Proof/Machine/System.lean ====
section
/-! DEFINITION. The system commands (spec 44_system R270, R271). -/

namespace Sys2Proof.Machine

/-- SYS.NOP (R270). -/
def execSysNop (s : State) : Result := completeOk s

/-- Every register and holding register at its reset value (R37); both memories, the build and the host's own side
are kept. -/
def State.softReset (s : State) : State :=
  { State.launch s.cfg s.imem s.omem with pending := s.pending, answers := s.answers }

/-- SYS.RESET (R271). -/
def execSysReset (s : State) : Result := completeOk s.softReset

end Sys2Proof.Machine
end

