-- ==== Sys2Proof/Machine/TypeCode.lean ====
section
/-! DEFINITION. The type-code commands (spec 41_typecode R169 to R177). -/

namespace Sys2Proof.Machine

/-- The end shared by both constructors (R169, R170): four letters go to T, anything else empties it. -/
def constructT (b : Quad) (s : State) : Result :=
  if isTypeCode b then completeOk (s.setT (some b)) else raise .invalidTypeCode (s.setT none)

/-- A property read: `RES <- 1 if ... else 0` on the type code in T (R172 to R176). -/
def readProperty (p : Quad → Bool) (s : State) : Result := withT s fun b => completeOk (s.setRes (p b).toNat)

/-- TC.SET4 (R169). -/
def execTcSet4 (s : State) : Result := withPacked s fun b => constructT b s

/-- TC.SETS (R170). -/
def execTcSets (s : State) : Result :=
  withSlice s fun bytes =>
    if s.a1 ≠ 4 then raise .invalidTypeCode (s.setT none) else constructT (quadAt bytes 0) s

/-- TC.BYTES (R171). -/
def execTcBytes (s : State) : Result := withT s fun b => completeOk (s.setRes (fromBe32 b).toNat)

/-- TC.ISCRIT (R172). -/
def execTcIsCrit (s : State) : Result := readProperty isCritical s

/-- TC.ISPUB (R173). -/
def execTcIsPub (s : State) : Result := readProperty isPublic s

/-- TC.ISRSV (R174). -/
def execTcIsRsv (s : State) : Result := readProperty isReservedBitValid s

/-- TC.ISSAFE (R175). -/
def execTcIsSafe (s : State) : Result := readProperty isSafeToCopy s

/-- TC.ISVALID (R176). -/
def execTcIsValid (s : State) : Result := readProperty isValid s

/-- TC.RENDER (R177, R168). -/
def execTcRender (s : State) : Result := withT s fun b => emit b.bytes s

end Sys2Proof.Machine
end

