-- ==== Sys2Proof/Machine/Dispatch.lean ====
section
/-! DEFINITION. The meaning of every command (spec 30_encoding R102): one arm per constructor. -/

namespace Sys2Proof.Machine

def exec (i : Instr) (s : State) : Host.Outcome State Fault Refusal :=
  match i with
  | .sysNop => Sys2Proof.Machine.execSysNop s
  | .sysReset => Sys2Proof.Machine.execSysReset s
  | .crcInit => Sys2Proof.Machine.execCrcInit s
  | .crcByte imm8 => Sys2Proof.Machine.execCrcByte imm8 s
  | .crcBuf => Sys2Proof.Machine.execCrcBuf s
  | .crcFin => Sys2Proof.Machine.execCrcFin s
  | .crcCheck => Sys2Proof.Machine.execCrcCheck s
  | .tcSet4 => Sys2Proof.Machine.execTcSet4 s
  | .tcSets => Sys2Proof.Machine.execTcSets s
  | .tcBytes => Sys2Proof.Machine.execTcBytes s
  | .tcIsCrit => Sys2Proof.Machine.execTcIsCrit s
  | .tcIsPub => Sys2Proof.Machine.execTcIsPub s
  | .tcIsRsv => Sys2Proof.Machine.execTcIsRsv s
  | .tcIsSafe => Sys2Proof.Machine.execTcIsSafe s
  | .tcIsValid => Sys2Proof.Machine.execTcIsValid s
  | .tcRender => Sys2Proof.Machine.execTcRender s
  | .chNew => Sys2Proof.Machine.execChNew s
  | .chParse => Sys2Proof.Machine.execChParse s
  | .chEmit => Sys2Proof.Machine.execChEmit s
  | .chLen => Sys2Proof.Machine.execChLen s
  | .chData => Sys2Proof.Machine.execChData s
  | .chType => Sys2Proof.Machine.execChType s
  | .chCrc => Sys2Proof.Machine.execChCrc s
  | .docParse => Sys2Proof.Machine.execDocParse s
  | .docCount => Sys2Proof.Machine.execDocCount s
  | .docGet => Sys2Proof.Machine.execDocGet s
  | .docFind => Sys2Proof.Machine.execDocFind s
  | .docAppend => Sys2Proof.Machine.execDocAppend s
  | .docRemove => Sys2Proof.Machine.execDocRemove s
  | .docEmit => Sys2Proof.Machine.execDocEmit s

end Sys2Proof.Machine
end

