-- ==== Sys2Proof/Machine/HostOps.lean ====
section
/-! DEFINITION. What a host operation does to the machine (spec 44_system R272 to R275) and the hardware reset event
(70_reset R320). -/

namespace Sys2Proof.Machine

/-- Command issue (R275): decode; an illegal word completes BadCommand (R103), a legal one runs to completion. -/
def issue (w : Nat) (s : State) : Result :=
  match decode w with
  | .error _ => raise .badCommand s
  | .ok i => exec i s

/-- `WR(n, v)` (R272): CMD issues, A0, A1 and OPTR take the value, the read-only registers ignore it. A number above 7
names no register (R38). -/
def writeRegister (n v : Nat) (s : State) : Result :=
  match n with
  | 0 => issue v s
  | 1 => .next s
  | 2 => .next (s.setA0 v)
  | 3 => .next (s.setA1 v)
  | 4 => .next s
  | 5 => .next s
  | 6 => .next (s.setOptr v)
  | 7 => .next s
  | _ => .refused (.noSuchRegister n)

/-- The value `RD(n)` returns (R273), zero-extended to AW bits; CMD reads as 0 (R29). -/
def readRegister (n : Nat) (s : State) : Option Nat :=
  match n with
  | 0 => some 0
  | 1 => some s.status
  | 2 => some s.a0
  | 3 => some s.a1
  | 4 => some s.res
  | 5 => some s.eaddr
  | 6 => some s.optr
  | 7 => some s.crcacc.toNat
  | _ => none

/-- A read hands its result to the host and changes nothing of the engine (R273, R274). -/
def answer (a : Answer) (s : State) : Result := .next (s.setAnswers (a :: s.answers))

/-- A memory with byte i of `bytes` at address i, as far as a memory of `size` bytes goes. -/
def Memory.ofBytes (size : Nat) (bytes : List Byte) : Memory := Memory.writeBytes [] 0 (bytes.take size)

/-- The hardware reset (R320, R37): every register and holding register at its reset value, both memories with the
contents the event brings. The build and the host's own side stay. -/
def State.hardReset (s : State) (imem omem : List Byte) : State :=
  { State.launch s.cfg (Memory.ofBytes s.cfg.imemSize imem) (Memory.ofBytes s.cfg.omemSize omem) with
    pending := s.pending, answers := s.answers }

/-- One host operation. -/
def hostStep (op : HostOp) (s : State) : Result :=
  match op with
  | .wr n v => if v < 2 ^ s.cfg.aw then writeRegister n v s else .refused .valueTooWide
  | .rd n =>
    match readRegister n s with
    | none => .refused (.noSuchRegister n)
    | some v => answer (.value v) s
  | .writeImem a bs =>
    if a + bs.length ≤ s.cfg.imemSize then .next (s.setImem (s.imem.writeBytes a bs)) else .refused .outsideMemory
  | .readImem a n =>
    if a + n ≤ s.cfg.imemSize then answer (.bytes (s.imem.readBytes a n)) s else .refused .outsideMemory
  | .readOmem a b =>
    if a ≤ b ∧ b ≤ s.cfg.omemSize then answer (.bytes (s.omem.readBytes a (b - a))) s else .refused .outsideMemory
  | .hardReset imem omem => .next (s.hardReset imem omem)

end Sys2Proof.Machine
end

