-- ==== Sys2Proof/Machine/Step.lean ====
section
/-! DEFINITION. One step of the machine: the host's next operation takes effect completely (spec 20_memory R72, 00_scope
R6, R7). There is no program counter and nothing is fetched (10_state R24): the host's operations are the program. -/

namespace Sys2Proof.Machine

/-- One step: take the host's next operation and perform it. With none there is no step (R6, log entry 4). -/
def step (s : State) : Host.Outcome State Fault Refusal :=
  match s.pending with
  | [] => .refused .noHostOperation
  | op :: rest => hostStep op (s.setPending rest)

/-- `s` with the host about to write the command word `w` to CMD: the place where this machine takes its next
instruction from (R24, R75, log entry 3). A command is one 32-bit word (R99), so `nbits` adds nothing. -/
def State.withFetchWord (s : State) (_nbits w : Nat) : State := s.setPending (.wr 0 w :: s.pending)

end Sys2Proof.Machine
end

