-- ==== Sys2Proof/Machine/Pseudo.lean ====
section
/-! DEFINITION. The pseudo-instructions of spec 30_encoding R108, each a list of host operations "and nothing more". -/

namespace Sys2Proof.Machine.Pseudo

/-- `<MNEMONIC>`: the host write of the command's word to CMD (R107). -/
def command (i : Instr) : HostOp := .wr 0 (encode i).toNat

/-- `SLICE a, n`. -/
def slice (a n : Nat) : List HostOp := [.wr 2 a, .wr 3 n]

/-- `KEY "wxyz"`. -/
def key (q : Quad) : List HostOp := [.wr 2 (fromBe32 q).toNat]

/-- `CRC32 a, n`. -/
def checksum (a n : Nat) : List HostOp := slice a n ++ [command .crcInit, command .crcBuf, command .crcFin]

/-- `CRC.STR "text"`. -/
def crcStr (text : List Byte) : List HostOp := text.map fun c => command (.crcByte c)

/-- `SETTYPE "wxyz"`. -/
def setType (q : Quad) : List HostOp := key q ++ [command .tcSet4]

/-- `NEWCHUNK "wxyz", a, n`. -/
def newChunk (q : Quad) (a n : Nat) : List HostOp := setType q ++ slice a n ++ [command .chNew]

end Sys2Proof.Machine.Pseudo
end

