-- ==== Sys2Proof/WellFormed.lean ====
section
/-! DEFINITION. Which terms stand for something the hardware has: builds (spec 00_scope R5), commands (30_encoding
R99) and host operations (10_state R38, 44_system R272 to R274). -/

namespace Sys2Proof

/-- The ranges R5 gives the OPEN parameters. -/
def Config.wf (c : Config) : Bool :=
  decide (33 ≤ c.aw) && decide (1 ≤ c.imemSize) && decide (c.imemSize ≤ 2 ^ c.aw - 1)
    && decide (1 ≤ c.omemSize) && decide (c.omemSize ≤ 2 ^ c.aw - 1) && decide (c.chDataMax ≤ 2 ^ 32 - 1)

/-- Every term of `Instr` is a command of R102: the one operand, imm8, has the byte type, so nothing is left to check. -/
def Instr.wf : Instr → Bool
  | .sysNop | .sysReset | .crcInit | .crcByte _ | .crcBuf | .crcFin | .crcCheck => true
  | .tcSet4 | .tcSets | .tcBytes | .tcIsCrit | .tcIsPub | .tcIsRsv | .tcIsSafe | .tcIsValid | .tcRender => true
  | .chNew | .chParse | .chEmit | .chLen | .chData | .chType | .chCrc => true
  | .docParse | .docCount | .docGet | .docFind | .docAppend | .docRemove | .docEmit => true

/-- The host operations the spec gives a meaning on a build `c`: a register number 0 to 7 (R38), an AW-bit value
(R272), an access inside the memory (R274). -/
def Machine.HostOp.wf (c : Config) : Machine.HostOp → Bool
  | .wr n v => decide (n < 8) && decide (v < 2 ^ c.aw)
  | .rd n => decide (n < 8)
  | .writeImem a bs => decide (a + bs.length ≤ c.imemSize)
  | .readImem a n => decide (a + n ≤ c.imemSize)
  | .readOmem a b => decide (a ≤ b) && decide (b ≤ c.omemSize)
  | .hardReset _ _ => true

end Sys2Proof
end

