-- ==== Sys2Proof/Safety.lean ====
section
/-! DEFINITION. What claims are stated in: valid chunks (spec 42_chunk_framer R191), the invariants of the holding
registers (10_state R30 to R32, R39), the machine invariant, and the states a run reaches. -/

namespace Sys2Proof.Machine

/-- The invariant of every chunk the machine holds (R31, R191). -/
structure Chunk.Valid (c : Chunk) : Prop where
  letters : isTypeCode c.typ = true
  len_eq : c.len.toNat = c.data.length
  crc_eq : c.crc = crc32 (c.typ.bytes ++ c.data)

/-- The invariants of T, CH and DOC (R30, R31, R32). -/
structure State.HoldingInv (s : State) : Prop where
  t_letters : ∀ q, s.t = some q → isTypeCode q = true
  ch_valid : ∀ c, s.ch = some c → c.Valid
  ch_fits : ∀ c, s.ch = some c → c.len.toNat ≤ s.cfg.chDataMax
  doc_valid : ∀ cs, s.doc = some cs → ∀ c ∈ cs, c.Valid
  doc_fits : ∀ cs, s.doc = some cs → ∀ c ∈ cs, c.len.toNat ≤ s.cfg.chDataMax
  doc_count : ∀ cs, s.doc = some cs → exceeds cs.length s.cfg.docChunksMax = false
  doc_total : ∀ cs, s.doc = some cs → exceeds (dataTotal cs) s.cfg.docDataMax = false

/-- A register value fits AW bits (R8, R20). -/
def fitsAw (cfg : Config) (v : Nat) : Prop := v < 2 ^ cfg.aw

/-- The machine invariant: a build R5 allows, AW-bit registers (R20), a code the hardware produces (R110), the holding
registers' invariants, and memories in canonical form inside their sizes (R60). -/
structure State.Inv (s : State) : Prop where
  cfg_wf : s.cfg.wf = true
  a0_fits : fitsAw s.cfg s.a0
  a1_fits : fitsAw s.cfg s.a1
  res_fits : fitsAw s.cfg s.res
  eaddr_fits : fitsAw s.cfg s.eaddr
  optr_fits : fitsAw s.cfg s.optr
  code_produced : s.code ≠ .notUtf8
  holding : s.HoldingInv
  imem_wf : s.imem.wf = true
  imem_within : s.imem.within s.cfg.imemSize = true
  omem_wf : s.omem.wf = true
  omem_within : s.omem.within s.cfg.omemSize = true

/-- The states host operations reach from a hardware reset of any build R5 allows, with any launch contents of the
memories and any sequence of host operations (R39). -/
inductive Reachable : State → Prop where
  | launch (cfg : Config) (imem omem : Memory) (ops : List HostOp) (h : cfg.wf = true)
      (hi : imem.wf = true) (his : imem.within cfg.imemSize = true)
      (ho : omem.wf = true) (hos : omem.within cfg.omemSize = true) :
      Reachable ((State.launch cfg imem omem).setPending ops)
  | step (s t : State) (hs : Reachable s) (h : step s = .next t) : Reachable t

/-- The state a result goes on in, if it goes on. -/
def stateOf : Result → Option State
  | .next s => some s
  | .fault _ => none
  | .refused _ => none

/-- The bytes an output command produces in a state that holds what it needs (R177, R212, R214, R251). -/
def outputOf (i : Instr) (s : State) : Option (List Byte) :=
  match i with
  | .tcRender => s.t.map Quad.bytes
  | .chEmit => s.ch.map chunkBytes
  | .chData => s.ch.map Chunk.data
  | .docEmit => s.doc.map docBytes
  | _ => none

/-- The rows of R285: the codes a command can produce. -/
def possibleCodes : Instr → List Code
  | .sysNop | .sysReset | .crcInit | .crcByte _ | .crcFin => [.ok]
  | .crcBuf => [.badOperand, .ok]
  | .crcCheck => [.badOperand, .crcMismatch, .ok]
  | .tcSet4 | .tcSets => [.badOperand, .invalidTypeCode, .ok]
  | .tcBytes | .tcIsCrit | .tcIsPub | .tcIsRsv | .tcIsSafe | .tcIsValid => [.noValue, .ok]
  | .tcRender => [.noValue, .storeFull, .ok]
  | .chNew => [.noValue, .badOperand, .storeFull, .ok]
  | .chParse => [.badOperand, .truncatedChunk, .oversizedChunk, .invalidTypeCode, .crcMismatch, .storeFull, .ok]
  | .chEmit | .chData => [.noValue, .storeFull, .ok]
  | .chLen | .chType | .chCrc => [.noValue, .ok]
  | .docParse =>
    [.badOperand, .badSignature, .truncatedChunk, .oversizedChunk, .invalidTypeCode, .crcMismatch, .storeFull, .ok]
  | .docCount => [.noValue, .ok]
  | .docGet => [.noValue, .badOperand, .ok]
  | .docFind => [.noValue, .badOperand, .ok]
  | .docAppend => [.noValue, .storeFull, .ok]
  | .docRemove => [.noValue, .badOperand, .chunkNotFound, .ok]
  | .docEmit => [.noValue, .storeFull, .ok]

end Sys2Proof.Machine
end

