-- ==== Sys2Proof/Certificates/Slice0/Obligations.lean ====
section
/-! DEFINITION. The statements about the model, for the provers. Each names the rule of spec/ it formalises. Next states
are written out as whole records, so that a result statement is its own frame: every field not named is unchanged. -/

open Sys2Proof Sys2Proof.Machine

/-! ### Encoding and command issue -/

/-- Words written out from the map of R102, two of each family, decode to their commands. A sanity statement. -/
def Obligations.WordsOfEveryFamilyDecode : Prop :=
  decode 0x00000000 = .ok .sysNop ∧ decode 0x01000000 = .ok .sysReset ∧
  decode 0x11000052 = .ok (.crcByte 0x52) ∧ decode 0x14000000 = .ok .crcCheck ∧
  decode 0x20000000 = .ok .tcSet4 ∧ decode 0x28000000 = .ok .tcRender ∧
  decode 0x30000000 = .ok .chNew ∧ decode 0x36000000 = .ok .chCrc ∧
  decode 0x40000000 = .ok .docParse ∧ decode 0x46000000 = .ok .docEmit

/-- The decoder accepts exactly the encoder's words: for every value `w` written to CMD and every command, `w` decodes
to the command if and only if it is the command's word (R99 to R102). -/
def Obligations.DecodeAndEncodeAgree : Prop :=
  ∀ (w : Nat) (i : Instr), decode w = .ok i ↔ w = (encode i).toNat

/-- R103: which values of CMD are illegal, and that issuing one completes BadCommand and changes nothing but
STATUS.CODE and RES (the host's operation is used up). -/
def Obligations.IllegalWordsCompleteBadCommand : Prop :=
  (∀ w : Nat, (∃ e, decode w = .error e) ↔
    (bitField w 31 24 ∉
        [0x00, 0x01, 0x10, 0x11, 0x12, 0x13, 0x14, 0x20, 0x21, 0x22, 0x23, 0x24, 0x25, 0x26, 0x27, 0x28,
         0x30, 0x31, 0x32, 0x33, 0x34, 0x35, 0x36, 0x40, 0x41, 0x42, 0x43, 0x44, 0x45, 0x46] ∨
      bitField w 23 8 ≠ 0 ∨ (bitField w 7 0 ≠ 0 ∧ bitField w 31 24 ≠ 0x11) ∨ 2 ^ 32 ≤ w)) ∧
  (∀ (s : State) (rest : List HostOp) (w : Nat) (e : DecodeError),
    s.pending = .wr 0 w :: rest → w < 2 ^ s.cfg.aw → decode w = .error e →
      step s = .next { s with pending := rest, code := .badCommand, res := 0 })

/-- R275: a write of CMD decodes the word and, in one step, completes BadCommand if it is illegal and otherwise runs the
command's rule to completion. There is no program counter to move: the step only takes the operation off the host's
list. The last part says the same of the place `withFetchWord` puts a word. -/
def Obligations.StepRunsTheDecodedCommand : Prop :=
  (∀ (s : State) (rest : List HostOp) (w : Nat) (i : Instr),
    s.pending = .wr 0 w :: rest → w < 2 ^ s.cfg.aw → decode w = .ok i →
      step s = exec i { s with pending := rest }) ∧
  (∀ (s : State) (rest : List HostOp) (w : Nat) (e : DecodeError),
    s.pending = .wr 0 w :: rest → w < 2 ^ s.cfg.aw → decode w = .error e →
      step s = .next { s with pending := rest, code := .badCommand, res := 0 }) ∧
  (∀ (s : State) (w : Nat) (i : Instr),
    w < 2 ^ s.cfg.aw → decode w = .ok i → step (s.withFetchWord 32 w) = exec i s)

/-! ### Host operations -/

/-- R272: a write of A0, A1 or OPTR sets that register and nothing else; a write of a read-only register is ignored; a
write of CMD issues the command. -/
def Obligations.HostRegisterWrites : Prop :=
  ∀ (s : State) (rest : List HostOp) (n v : Nat), s.pending = .wr n v :: rest → v < 2 ^ s.cfg.aw →
    (n = 0 → ∀ i, decode v = .ok i → step s = exec i { s with pending := rest }) ∧
    (n = 0 → ∀ e, decode v = .error e → step s = .next { s with pending := rest, code := .badCommand, res := 0 }) ∧
    (n = 2 → step s = .next { s with pending := rest, a0 := v }) ∧
    (n = 3 → step s = .next { s with pending := rest, a1 := v }) ∧
    (n = 6 → step s = .next { s with pending := rest, optr := v }) ∧
    (n = 1 ∨ n = 4 ∨ n = 5 ∨ n = 7 → step s = .next { s with pending := rest })

/-- R273: a register read returns the register's value (0 for CMD) and changes nothing of the engine. -/
def Obligations.HostRegisterReads : Prop :=
  ∀ (s : State) (rest : List HostOp) (n : Nat), s.pending = .rd n :: rest → n < 8 →
    ∃ v, step s = .next { s with pending := rest, answers := .value v :: s.answers } ∧
      (n = 0 → v = 0) ∧ (n = 1 → v = s.status) ∧ (n = 2 → v = s.a0) ∧ (n = 3 → v = s.a1) ∧
      (n = 4 → v = s.res) ∧ (n = 5 → v = s.eaddr) ∧ (n = 6 → v = s.optr) ∧ (n = 7 → v = s.crcacc.toNat)

/-- R25, R110: the fields of the STATUS word, each completion code under its number, reserved bits zero. -/
def Obligations.StatusWordFields : Prop :=
  ∀ s : State,
    (∀ p ∈ [(Code.ok, 0), (.invalidTypeCode, 1), (.truncatedChunk, 2), (.oversizedChunk, 3), (.crcMismatch, 4),
        (.badSignature, 5), (.chunkNotFound, 6), (.notUtf8, 7), (.badCommand, 8), (.badOperand, 9), (.noValue, 10),
        (.storeFull, 11)],
      s.code = p.1 → bitField s.status 7 0 = p.2) ∧
    (bitField s.status 8 8 = 1 ↔ s.t ≠ none) ∧ (bitField s.status 9 9 = 1 ↔ s.ch ≠ none) ∧
    (bitField s.status 10 10 = 1 ↔ s.doc ≠ none) ∧ s.status < 2 ^ 11

/-- R274: the host's memory operations. A write of IMEM stores its bytes and leaves every other byte and every
register; a read back of IMEM and a read of OMEM return the bytes there; an access outside a memory is refused; and no
host operation but a command and a hardware reset changes OMEM. -/
def Obligations.HostMemoryAccess : Prop :=
  (∀ (s : State) (rest : List HostOp) (a : Nat) (bs : List Byte),
    s.pending = .writeImem a bs :: rest → s.imem.wf = true →
      (a + bs.length ≤ s.cfg.imemSize → ∃ t, step s = .next t ∧ t = { s with pending := rest, imem := t.imem } ∧
        (∀ j (h : j < bs.length), t.imem.readByte (a + j) = bs[j]) ∧
        (∀ x, x < a ∨ a + bs.length ≤ x → t.imem.readByte x = s.imem.readByte x)) ∧
      (s.cfg.imemSize < a + bs.length → step s = .refused .outsideMemory)) ∧
  (∀ (s : State) (rest : List HostOp) (a n : Nat), s.pending = .readImem a n :: rest →
      (a + n ≤ s.cfg.imemSize → ∃ bs : List Byte,
        step s = .next { s with pending := rest, answers := .bytes bs :: s.answers } ∧ bs.length = n ∧
        ∀ j (h : j < bs.length), bs[j] = s.imem.readByte (a + j)) ∧
      (s.cfg.imemSize < a + n → step s = .refused .outsideMemory)) ∧
  (∀ (s : State) (rest : List HostOp) (a b : Nat), s.pending = .readOmem a b :: rest →
      (a ≤ b → b ≤ s.cfg.omemSize → ∃ bs : List Byte,
        step s = .next { s with pending := rest, answers := .bytes bs :: s.answers } ∧ bs.length = b - a ∧
        ∀ j (h : j < bs.length), bs[j] = s.omem.readByte (a + j)) ∧
      (s.cfg.omemSize < b → step s = .refused .outsideMemory)) ∧
  (∀ (s t : State) (op : HostOp) (rest : List HostOp), s.pending = op :: rest → (∀ w, op ≠ .wr 0 w) →
    (∀ im om, op ≠ .hardReset im om) → step s = .next t → t.omem = s.omem)

/-- The operations the spec gives no meaning are refused by name: a register number above 7 (R38); and, by the model's
own choices, a value wider than AW bits (log entry 10) and a step with nothing issued (log entry 4). -/
def Obligations.OperationsWithNoMeaningAreRefused : Prop :=
  (∀ (s : State) (rest : List HostOp) (n : Nat), s.pending = .rd n :: rest → 8 ≤ n →
    step s = .refused (.noSuchRegister n)) ∧
  (∀ (s : State) (rest : List HostOp) (n v : Nat), s.pending = .wr n v :: rest → 8 ≤ n → v < 2 ^ s.cfg.aw →
    step s = .refused (.noSuchRegister n)) ∧
  (∀ (s : State) (rest : List HostOp) (n v : Nat), s.pending = .wr n v :: rest → 2 ^ s.cfg.aw ≤ v →
    step s = .refused .valueTooWide) ∧
  (∀ s : State, s.pending = [] → step s = .refused .noHostOperation)

/-- R320 with R37: the hardware reset event puts every register and holding register at its reset value, whatever the
state was. The memories get the contents the event brings (log entry 6, the model's form of "unspecified"). -/
def Obligations.HardwareResetFromAnyState : Prop :=
  ∀ (s : State) (rest : List HostOp) (im om : List Byte), s.pending = .hardReset im om :: rest →
    ∃ t, step s = .next t ∧
      t = { cfg := s.cfg, code := .ok, a0 := 0, a1 := 0, res := 0, eaddr := 0, optr := 0, crcacc := 0xFFFFFFFF,
            t := none, ch := none, doc := none, imem := t.imem, omem := t.omem, pending := rest,
            answers := s.answers } ∧
      (∀ x b, x < s.cfg.imemSize → im[x]? = some b → t.imem.readByte x = b) ∧
      (∀ x b, x < s.cfg.omemSize → om[x]? = some b → t.omem.readByte x = b)

/-! ### Reset and system commands -/

/-- R37: the value of every register and holding register after a hardware reset, for every build and any contents of
the two memories; and the same values after SYS.RESET, which leaves both memories. -/
def Obligations.ResetValues : Prop :=
  (∀ (cfg : Config) (im om : Memory),
    State.launch cfg im om =
      { cfg := cfg, code := .ok, a0 := 0, a1 := 0, res := 0, eaddr := 0, optr := 0, crcacc := 0xFFFFFFFF,
        t := none, ch := none, doc := none, imem := im, omem := om, pending := [], answers := [] } ∧
    (State.launch cfg im om).status = 0) ∧
  (∃ cfg im om, State.reset = State.launch cfg im om ∧ cfg.wf = true) ∧
  (∀ s : State, exec .sysReset s = .next
    { s with code := .ok, a0 := 0, a1 := 0, res := 0, eaddr := 0, optr := 0, crcacc := 0xFFFFFFFF,
             t := none, ch := none, doc := none })

/-- R270, R271: SYS.NOP sets the code to OK and leaves every other piece of state, RES included; SYS.RESET puts all
registers and holding registers at reset values and keeps both memories; with their words. And no command but SYS.RESET
and a failing DOC.PARSE makes DOC hold no value. -/
def Obligations.SystemCommands : Prop :=
  decode 0x00000000 = .ok .sysNop ∧ decode 0x01000000 = .ok .sysReset ∧
  (∀ (i : Instr) (s t : State), exec i s = .next t → s.doc ≠ none → t.doc = none →
    i = .sysReset ∨ i = .docParse ∧ t.code ≠ .ok) ∧
  ∀ s : State,
    exec .sysNop s = .next { s with code := .ok } ∧
    exec .sysReset s = .next
      { s with code := .ok, a0 := 0, a1 := 0, res := 0, eaddr := 0, optr := 0, crcacc := 0xFFFFFFFF,
               t := none, ch := none, doc := none }

/-! ### CRC unit -/

/-- R137 to R141: what each CRC command does in every state, with its word; and two adjacent slices absorbed one after
the other are one slice. -/
def Obligations.CrcCommands : Prop :=
  decode 0x10000000 = .ok .crcInit ∧ (∀ b : Byte, decode (0x11000000 + b.toNat) = .ok (.crcByte b)) ∧
  decode 0x12000000 = .ok .crcBuf ∧ decode 0x13000000 = .ok .crcFin ∧ decode 0x14000000 = .ok .crcCheck ∧
  ∀ s : State,
    exec .crcInit s = .next { s with crcacc := 0xFFFFFFFF, code := .ok } ∧
    (∀ b : Byte, exec (.crcByte b) s = .next { s with crcacc := crcStep s.crcacc b, code := .ok }) ∧
    (s.a0 + s.a1 ≤ s.cfg.imemSize → exec .crcBuf s =
      .next { s with crcacc := crcUpdate s.crcacc (s.imem.readBytes s.a0 s.a1), code := .ok }) ∧
    (s.cfg.imemSize < s.a0 + s.a1 → exec .crcBuf s = .next { s with code := .badOperand, res := 0 }) ∧
    (∀ a n m : Nat, crcUpdate s.crcacc (s.imem.readBytes a (n + m)) =
      crcUpdate (crcUpdate s.crcacc (s.imem.readBytes a n)) (s.imem.readBytes (a + n) m)) ∧
    exec .crcFin s = .next { s with res := (s.crcacc ^^^ 0xFFFFFFFF).toNat, code := .ok } ∧
    (2 ^ 32 ≤ s.a0 → exec .crcCheck s = .next { s with code := .badOperand, res := 0 }) ∧
    (s.a0 < 2 ^ 32 → (s.crcacc ^^^ 0xFFFFFFFF).toNat = s.a0 →
      exec .crcCheck s = .next { s with code := .ok, res := 1 }) ∧
    (s.a0 < 2 ^ 32 → (s.crcacc ^^^ 0xFFFFFFFF).toNat ≠ s.a0 →
      exec .crcCheck s = .next { s with code := .crcMismatch, res := 0 })

/-- R134: the laws of the checksum. Incrementality; `crc_step` is a bijection for each byte and an injection of the
byte; sequences of equal length differing in exactly one byte have different checksums; and longer sequences can share
one. (Law 3, no carry and no wrap, is the type of the function.) -/
def Obligations.ChecksumLaws : Prop :=
  (∀ (c : Word) (s t : List Byte), crcUpdate c (s ++ t) = crcUpdate (crcUpdate c s) t) ∧
  (∀ c : Word, crcUpdate c [] = c) ∧
  (∀ b : Byte, Function.Bijective fun c : Word => crcStep c b) ∧
  (∀ c : Word, Function.Injective (crcStep c)) ∧
  (∀ (p q : List Byte) (x y : Byte), x ≠ y → crc32 (p ++ x :: q) ≠ crc32 (p ++ y :: q)) ∧
  (∃ s t : List Byte, 4 < s.length ∧ s.length = t.length ∧ s ≠ t ∧ crc32 s = crc32 t)

/-- R133: the printed table holds `crc_step(0, i)` at every index, and the table form equals the bit-serial step on
every remainder and byte. -/
def Obligations.TableFormEqualsBitSerialForm : Prop :=
  crcTable.length = 256 ∧ (∀ i, i < 256 → crcTable[i]? = some (crcStep 0 (BitVec.ofNat 8 i))) ∧
  ∀ (c : Word) (b : Byte), crcStepByTable c b = crcStep c b

/-- R108: the pseudo-instruction `CRC32 a, n`, five host operations, leaves `RES = crc32(MemRead(a, n))` from every
state of a build R5 allows when the slice is in bounds. -/
def Obligations.ChecksumPseudoInstruction : Prop :=
  ∀ (s : State) (a n : Nat), s.cfg.wf = true → a + n ≤ s.cfg.imemSize → s.pending = Pseudo.checksum a n →
    ∃ t, core.run 5 s = .next t ∧ t.res = (crc32 (s.imem.readBytes a n)).toNat ∧ t.code = .ok ∧ t.pending = []

/-- R34 (with R28 and R37 for SYS.RESET, log entry 8): every command but CRC.INIT, CRC.BYTE, CRC.BUF and SYS.RESET
leaves CRCACC, and the result of every command outside the CRC family does not depend on it. -/
def Obligations.OnlyCrcCommandsUseCrcacc : Prop :=
  (∀ (i : Instr) (s t : State), exec i s = .next t →
    i ≠ .crcInit → (∀ b, i ≠ .crcByte b) → i ≠ .crcBuf → i ≠ .sysReset → t.crcacc = s.crcacc) ∧
  (∀ (i : Instr) (s t : State) (x : Word), exec i s = .next t →
    i ≠ .crcInit → (∀ b, i ≠ .crcByte b) → i ≠ .crcBuf → i ≠ .crcFin → i ≠ .crcCheck → i ≠ .sysReset →
      exec i { s with crcacc := x } = .next { t with crcacc := x })

/-! ### Type code -/

/-- R160, R167: which bytes are letters, that bit 5 of a letter is its case, what the four properties of a type code
say of the case of its bytes, and that all 16 combinations of them occur. -/
def Obligations.LettersAndTheirCaseBit : Prop :=
  (∀ b : Byte, isLetter b = true ↔ (0x41 ≤ b.toNat ∧ b.toNat ≤ 0x5A) ∨ (0x61 ≤ b.toNat ∧ b.toNat ≤ 0x7A)) ∧
  (∀ b : Byte, isLetter b = true → (b.getLsbD 5 = false ↔ b.toNat ≤ 0x5A) ∧ (b.getLsbD 5 = true ↔ 0x61 ≤ b.toNat)) ∧
  (∀ q : Quad, isTypeCode q = true →
    (isCritical q = true ↔ q.b0.toNat ≤ 0x5A) ∧ (isPublic q = true ↔ q.b1.toNat ≤ 0x5A) ∧
    (isReservedBitValid q = true ↔ q.b2.toNat ≤ 0x5A) ∧ (isSafeToCopy q = true ↔ 0x61 ≤ q.b3.toNat)) ∧
  (∀ crit pub rsv safe : Bool, ∃ q : Quad, isTypeCode q = true ∧ isCritical q = crit ∧ isPublic q = pub ∧
    isReservedBitValid q = rsv ∧ isSafeToCopy q = safe)

/-- R169, R170: both constructors in every state, with their words. Four letters go to T with RES unchanged; a byte
that is no letter, or a length other than 4, empties T; an operand out of range changes nothing but CODE and RES. -/
def Obligations.TypeCodeConstructors : Prop :=
  decode 0x20000000 = .ok .tcSet4 ∧ decode 0x21000000 = .ok .tcSets ∧
  ∀ s : State,
    (2 ^ 32 ≤ s.a0 → exec .tcSet4 s = .next { s with code := .badOperand, res := 0 }) ∧
    (∀ q : Quad, s.a0 = (fromBe32 q).toNat → isTypeCode q = true →
      exec .tcSet4 s = .next { s with t := some q, code := .ok }) ∧
    (∀ q : Quad, s.a0 = (fromBe32 q).toNat → isTypeCode q = false →
      exec .tcSet4 s = .next { s with t := none, code := .invalidTypeCode, res := 0 }) ∧
    (s.cfg.imemSize < s.a0 + s.a1 → exec .tcSets s = .next { s with code := .badOperand, res := 0 }) ∧
    (s.a0 + s.a1 ≤ s.cfg.imemSize → s.a1 ≠ 4 →
      exec .tcSets s = .next { s with t := none, code := .invalidTypeCode, res := 0 }) ∧
    (∀ q : Quad, s.a0 + s.a1 ≤ s.cfg.imemSize → s.a1 = 4 → s.imem.readBytes s.a0 4 = q.bytes →
      (isTypeCode q = true → exec .tcSets s = .next { s with t := some q, code := .ok }) ∧
      (isTypeCode q = false → exec .tcSets s = .next { s with t := none, code := .invalidTypeCode, res := 0 }))

/-- R170's corner case: a 4-byte string does what TC.SET4 of the same bytes does, in every state, letters or not. -/
def Obligations.StringAndPackedConstructorsAgree : Prop :=
  ∀ (s : State) (q : Quad), s.a0 + s.a1 ≤ s.cfg.imemSize → s.a1 = 4 →
    (∀ j (h : j < q.bytes.length), q.bytes[j] = s.imem.readByte (s.a0 + j)) →
    ∃ t, exec .tcSets s = .next t ∧
      exec .tcSet4 { s with a0 := (fromBe32 q).toNat } = .next { t with a0 := (fromBe32 q).toNat }

/-- R171 to R176: the reads of T in every state, with their words: RES gets the packed bytes or the property, everything
else is unchanged; with T empty they complete NoValue. -/
def Obligations.TypeCodeReads : Prop :=
  decode 0x22000000 = .ok .tcBytes ∧ decode 0x23000000 = .ok .tcIsCrit ∧ decode 0x24000000 = .ok .tcIsPub ∧
  decode 0x25000000 = .ok .tcIsRsv ∧ decode 0x26000000 = .ok .tcIsSafe ∧ decode 0x27000000 = .ok .tcIsValid ∧
  ∀ s : State,
    (s.t = none → ∀ i ∈ [Instr.tcBytes, .tcIsCrit, .tcIsPub, .tcIsRsv, .tcIsSafe, .tcIsValid],
      exec i s = .next { s with code := .noValue, res := 0 }) ∧
    ∀ q, s.t = some q →
      exec .tcBytes s = .next { s with
        code := .ok
        res := q.b0.toNat * 2 ^ 24 + q.b1.toNat * 2 ^ 16 + q.b2.toNat * 2 ^ 8 + q.b3.toNat } ∧
      exec .tcIsCrit s = .next { s with code := .ok, res := if q.b0.getLsbD 5 = false then 1 else 0 } ∧
      exec .tcIsPub s = .next { s with code := .ok, res := if q.b1.getLsbD 5 = false then 1 else 0 } ∧
      exec .tcIsRsv s = .next { s with code := .ok, res := if q.b2.getLsbD 5 = false then 1 else 0 } ∧
      exec .tcIsSafe s = .next { s with code := .ok, res := if q.b3.getLsbD 5 = true then 1 else 0 } ∧
      exec .tcIsValid s = .next { s with code := .ok, res := if q.b2.getLsbD 5 = false then 1 else 0 }

/-! ### Output -/

/-- R65, R66: TC.RENDER, CH.EMIT, CH.DATA and DOC.EMIT. Where their bytes `v` (`outputOf`: R177, R212, R214, R251) fit,
the command completes: byte i of `v` goes to OMEM address OPTR + i, every byte outside reads as before, OPTR advances
by the count, RES is the count, and nothing else changes. Where they do not fit, nothing is written. -/
def Obligations.OutputCommandsStoreTheirBytes : Prop :=
  ∀ (i : Instr) (s : State) (v : List Byte), outputOf i s = some v → s.omem.wf = true →
    (s.optr + v.length ≤ s.cfg.omemSize → ∃ t, exec i s = .next t ∧
      t = { s with code := .ok, optr := s.optr + v.length, res := v.length, omem := t.omem } ∧
      (∀ j (h : j < v.length), t.omem.readByte (s.optr + j) = v[j]) ∧
      (∀ a, a < s.optr ∨ s.optr + v.length ≤ a → t.omem.readByte a = s.omem.readByte a)) ∧
    (s.cfg.omemSize < s.optr + v.length → exec i s = .next { s with code := .storeFull, res := 0 })

/-- The bytes of the output commands and their counts (R177, R91 and R192 for CH.EMIT, R214, R232 for DOC.EMIT): the
type code itself; length, type, data and checksum, big-endian; the data; the signature and the records in order. -/
def Obligations.OutputBytesAndCounts : Prop :=
  ∀ (s : State), s.HoldingInv →
    (∀ q, s.t = some q → outputOf .tcRender s = some [q.b0, q.b1, q.b2, q.b3]) ∧
    (∀ c, s.ch = some c → ∃ l k : Quad, fromBe32 l = c.len ∧ fromBe32 k = c.crc ∧
      outputOf .chEmit s = some (l.bytes ++ c.typ.bytes ++ c.data ++ k.bytes) ∧
      (l.bytes ++ c.typ.bytes ++ c.data ++ k.bytes).length = 12 + c.len.toNat) ∧
    (∀ c, s.ch = some c → outputOf .chData s = some c.data ∧ c.data.length = c.len.toNat) ∧
    (∀ cs, s.doc = some cs →
      outputOf .docEmit s =
        some ([0x89, 0x50, 0x4E, 0x47, 0x0D, 0x0A, 0x1A, 0x0A] ++ (cs.map chunkBytes).flatten) ∧
      ∀ v, outputOf .docEmit s = some v → v.length = 8 + (cs.map fun c => 12 + c.len.toNat).sum)

/-- R60, R71: no command writes IMEM, and only the four output commands write OMEM. -/
def Obligations.OnlyOutputCommandsWriteMemory : Prop :=
  ∀ (i : Instr) (s t : State), exec i s = .next t →
    t.imem = s.imem ∧ (i ∉ [Instr.tcRender, .chEmit, .chData, .docEmit] → t.omem = s.omem ∧ (i ≠ .sysReset → t.optr = s.optr)) ∧
      (t.code ≠ .ok → t.omem = s.omem ∧ t.optr = s.optr)

/-- R60, R64: the engine never reads OMEM, and reads no byte of IMEM outside the slice (A0, A1): two states that differ
only there have results that differ only there. -/
def Obligations.EngineReadsOnlyItsSlice : Prop :=
  (∀ (i : Instr) (s t : State) (m : Memory), exec i s = .next t →
    ∃ m', exec i { s with omem := m } = .next { t with omem := m' }) ∧
  (∀ (i : Instr) (s t : State) (m : Memory), exec i s = .next t →
    (∀ j, j < s.a1 → m.readByte (s.a0 + j) = s.imem.readByte (s.a0 + j)) →
    exec i { s with imem := m } = .next { t with imem := m })

/-! ### Chunk framer -/

/-- R210: CH.NEW in every state, with its word: NoValue, BadOperand (slice, then length), StoreFull, else the chunk of
T and the payload with its computed checksum, which RES reports. -/
def Obligations.ChNewBuildsTheChunk : Prop :=
  decode 0x30000000 = .ok .chNew ∧
  ∀ s : State,
    (s.t = none → exec .chNew s = .next { s with code := .noValue, res := 0 }) ∧
    ∀ q, s.t = some q →
      (s.cfg.imemSize < s.a0 + s.a1 ∨ 2 ^ 32 - 1 < s.a1 →
        exec .chNew s = .next { s with code := .badOperand, res := 0 }) ∧
      (s.a0 + s.a1 ≤ s.cfg.imemSize → s.a1 ≤ 2 ^ 32 - 1 → s.cfg.chDataMax < s.a1 →
        exec .chNew s = .next { s with code := .storeFull, res := 0 }) ∧
      (s.a0 + s.a1 ≤ s.cfg.imemSize → s.a1 ≤ 2 ^ 32 - 1 → s.a1 ≤ s.cfg.chDataMax →
        exec .chNew s = .next { s with
          code := .ok
          ch := some
            { typ := q, data := s.imem.readBytes s.a0 s.a1, len := BitVec.ofNat 32 s.a1,
              crc := crc32 (q.bytes ++ s.imem.readBytes s.a0 s.a1) }
          res := (crc32 (q.bytes ++ s.imem.readBytes s.a0 s.a1)).toNat })

/-- R211: CH.PARSE in every state, with its word: BadOperand; the code of `parse_record` with CH emptied and EADDR at
the record; StoreFull; else the parsed chunk in CH and the bytes consumed in RES. T, DOC and CRCACC are unchanged. -/
def Obligations.ChParseLoadsOrEmptiesCh : Prop :=
  decode 0x31000000 = .ok .chParse ∧
  ∀ s : State,
    (s.cfg.imemSize < s.a0 + s.a1 → exec .chParse s = .next { s with code := .badOperand, res := 0 }) ∧
    (s.a0 + s.a1 ≤ s.cfg.imemSize → ∀ e, parseRecord (s.imem.readBytes s.a0 s.a1) = .error e →
      exec .chParse s = .next { s with code := e, res := 0, ch := none, eaddr := s.a0 }) ∧
    (s.a0 + s.a1 ≤ s.cfg.imemSize → ∀ c k, parseRecord (s.imem.readBytes s.a0 s.a1) = .ok (c, k) →
      k = 12 + c.len.toNat ∧
      (s.cfg.chDataMax < c.len.toNat → exec .chParse s = .next { s with code := .storeFull, res := 0 }) ∧
      (c.len.toNat ≤ s.cfg.chDataMax → exec .chParse s = .next { s with code := .ok, ch := some c, res := k }))

/-- R213, R215, R216: the reads of CH in every state, with their words. CH.TYPE copies the type into T and leaves RES. -/
def Obligations.ChunkReads : Prop :=
  decode 0x33000000 = .ok .chLen ∧ decode 0x35000000 = .ok .chType ∧ decode 0x36000000 = .ok .chCrc ∧
  ∀ s : State,
    (s.ch = none → ∀ i ∈ [Instr.chLen, .chType, .chCrc], exec i s = .next { s with code := .noValue, res := 0 }) ∧
    ∀ c, s.ch = some c →
      exec .chLen s = .next { s with code := .ok, res := c.len.toNat } ∧
      exec .chType s = .next { s with code := .ok, t := some c.typ } ∧
      exec .chCrc s = .next { s with code := .ok, res := c.crc.toNat }

/-- R197: what the order of the parse steps decides, row by row. `L` is the length field, `q` the type field; the crc
field is the four bytes after the data. -/
def Obligations.ParseStepOrder : Prop :=
  ∀ (s : List Byte) (L : Nat) (q : Quad), L = (fromBe32 (quadAt s 0)).toNat → q = quadAt s 4 →
    (s.length < 12 → parseRecord s = .error .truncatedChunk) ∧
    (12 ≤ s.length → 2 ^ 31 < L → parseRecord s = .error .oversizedChunk) ∧
    (12 ≤ s.length → L = 2 ^ 31 → parseRecord s ≠ .error .oversizedChunk) ∧
    (12 ≤ s.length → L ≤ 2 ^ 31 → isTypeCode q = false → parseRecord s = .error .invalidTypeCode) ∧
    (12 ≤ s.length → L ≤ 2 ^ 31 → isTypeCode q = true → s.length < 12 + L →
      parseRecord s = .error .truncatedChunk) ∧
    (L ≤ 2 ^ 31 → isTypeCode q = true → 12 + L ≤ s.length →
      crc32 (q.bytes ++ (s.drop 8).take L) ≠ fromBe32 (quadAt s (8 + L)) →
      parseRecord s = .error .crcMismatch) ∧
    (L ≤ 2 ^ 31 → isTypeCode q = true → 12 + L ≤ s.length →
      crc32 (q.bytes ++ (s.drop 8).take L) = fromBe32 (quadAt s (8 + L)) →
      ∃ c, parseRecord s = .ok (c, 12 + L) ∧ c.typ = q ∧ c.data = (s.drop 8).take L ∧ c.len.toNat = L)

/-- R198, the round-trip law: a valid chunk's record parses back to it, whatever follows, a constructed chunk's among
them; the deserializer accepts only
serializer outputs, byte for byte; a chunk above the ceiling is rejected with OversizedChunk. -/
def Obligations.RecordRoundTrip : Prop :=
  (∀ (c : Chunk) (r : List Byte), c.Valid → c.len.toNat ≤ 2 ^ 31 →
    parseRecord (chunkBytes c ++ r) = .ok (c, 12 + c.len.toNat)) ∧
  (∀ (s : List Byte) (c : Chunk) (k : Nat), parseRecord s = .ok (c, k) →
    k ≤ s.length ∧ s.take k = chunkBytes c ∧ c.Valid) ∧
  (∀ (t : Quad) (d : List Byte), isTypeCode t = true → d.length ≤ 2 ^ 31 →
    parseRecord (chunkBytes (chunkNew t d)) = .ok (chunkNew t d, 12 + d.length)) ∧
  (∀ (c : Chunk) (r : List Byte), c.Valid → 2 ^ 31 < c.len.toNat →
    parseRecord (chunkBytes c ++ r) = .error .oversizedChunk)

/-- R199: a successful parse uses exactly the first 12 + L bytes; bytes after the record neither change the result nor
make the parse fail. -/
def Obligations.ParseIgnoresFollowingBytes : Prop :=
  ∀ (s : List Byte) (c : Chunk) (k : Nat), parseRecord s = .ok (c, k) →
    k = 12 + c.len.toNat ∧ k ≤ s.length ∧ ∀ r : List Byte, parseRecord (s.take k ++ r) = .ok (c, k)

/-- R200: what the parse gives, field by field, after flipping bit `k` of byte `i` of a valid chunk's record. In the data or crc field: CrcMismatch, always. In the type
field: CrcMismatch if the byte is still a letter (always so for bit 5), InvalidTypeCode if not. In the length field:
OversizedChunk, TruncatedChunk, CrcMismatch, or a success in which the bytes at the new crc position equal the new
checksum. -/
def Obligations.OneBitFlipByField : Prop :=
  ∀ (c : Chunk) (i k : Nat) (b : Byte) (s : List Byte), c.Valid → c.len.toNat ≤ 2 ^ 31 → k < 8 →
    (chunkBytes c)[i]? = some b → s = (chunkBytes c).set i (b ^^^ (1#8 <<< k)) →
    (8 ≤ i → parseRecord s = .error .crcMismatch) ∧
    (4 ≤ i → i < 8 → isLetter (b ^^^ (1#8 <<< k)) = true → parseRecord s = .error .crcMismatch) ∧
    (4 ≤ i → i < 8 → k = 5 → isLetter (b ^^^ (1#8 <<< k)) = true) ∧
    (4 ≤ i → i < 8 → isLetter (b ^^^ (1#8 <<< k)) = false → parseRecord s = .error .invalidTypeCode) ∧
    (i < 4 → parseRecord s = .error .oversizedChunk ∨ parseRecord s = .error .truncatedChunk ∨
      parseRecord s = .error .crcMismatch ∨ ∃ d n, parseRecord s = .ok (d, n) ∧
        crc32 (c.typ.bytes ++ (s.drop 8).take (n - 12)) = fromBe32 (quadAt s (n - 4)))

/-! ### Document sequencer -/

/-- R235: (a) re-serializing a parsed document reproduces the buffer exactly; (b) a document of valid chunks within the
ceiling parses back from its serialization. -/
def Obligations.DocumentRoundTrip : Prop :=
  (∀ (s : List Byte) (cs : List Chunk), docParse s = .ok cs → docBytes cs = s) ∧
  (∀ cs : List Chunk, (∀ c ∈ cs, c.Valid ∧ c.len.toNat ≤ 2 ^ 31) → docParse (docBytes cs) = .ok cs)

/-- R233, R234: a buffer that does not begin with the signature is BadSignature at offset 0; otherwise the first record
that fails gives the code and its offset, whatever follows it; and these are the only ways `doc_parse` fails, the
records before the failing one all being records of valid chunks. -/
def Obligations.FirstBadRecordDecides : Prop :=
  (∀ s : List Byte, s.take 8 ≠ [0x89, 0x50, 0x4E, 0x47, 0x0D, 0x0A, 0x1A, 0x0A] →
    docParse s = .error (.badSignature, 0)) ∧
  (∀ (cs : List Chunk) (r : List Byte) (e : Code), (∀ c ∈ cs, c.Valid ∧ c.len.toNat ≤ 2 ^ 31) → r ≠ [] →
    parseRecord r = .error e →
    docParse (docBytes cs ++ r) = .error (e, 8 + (cs.map fun c => 12 + c.len.toNat).sum)) ∧
  (∀ (s : List Byte) (e : Code) (off : Nat), docParse s = .error (e, off) →
    (e = .badSignature ∧ off = 0 ∧ s.take 8 ≠ [0x89, 0x50, 0x4E, 0x47, 0x0D, 0x0A, 0x1A, 0x0A]) ∨
    ∃ cs r, (∀ c ∈ cs, c.Valid ∧ c.len.toNat ≤ 2 ^ 31) ∧ s = docBytes cs ++ r ∧ r ≠ [] ∧
      parseRecord r = .error e ∧ off = (docBytes cs).length)

/-- R236: `find_first` is the smallest index whose type is the key, or none; and a key with a non-letter byte matches
nothing in a sequence of valid chunks. -/
def Obligations.FindFirstIsTheSmallestIndex : Prop :=
  (∀ (cs : List Chunk) (k : Quad) (i : Nat) (c : Chunk), findFirst cs k = some (i, c) ↔
    cs[i]? = some c ∧ c.typ = k ∧ ∀ j d, j < i → cs[j]? = some d → d.typ ≠ k) ∧
  (∀ (cs : List Chunk) (k : Quad), (∀ c ∈ cs, c.Valid) → isTypeCode k = false → findFirst cs k = none)

/-- R239: the append-remove law on values and on commands, and the not-found law. -/
def Obligations.AppendThenRemove : Prop :=
  (∀ (cs : List Chunk) (c : Chunk), (∀ d ∈ cs, d.typ ≠ c.typ) →
    removeFirst (cs ++ [c]) c.typ = some (cs.length, c, cs)) ∧
  (∀ (cs : List Chunk) (c : Chunk) (i : Nat) (d : Chunk) (rest : List Chunk),
    removeFirst cs c.typ = some (i, d, rest) → removeFirst (cs ++ [c]) c.typ = some (i, d, rest ++ [c])) ∧
  (∀ (s : State) (cs : List Chunk) (c : Chunk), s.doc = some cs → s.ch = some c → (∀ d ∈ cs, d.typ ≠ c.typ) →
    exceeds (cs.length + 1) s.cfg.docChunksMax = false →
    exceeds (dataTotal cs + c.len.toNat) s.cfg.docDataMax = false →
    ∃ t u, exec .docAppend s = .next t ∧ exec .docRemove { t with a0 := (fromBe32 c.typ).toNat } = .next u ∧
      u.code = .ok ∧ u.ch = some c ∧ u.doc = some cs) ∧
  (∀ (s : State) (cs : List Chunk) (k : Quad), s.doc = some cs → s.a0 = (fromBe32 k).toNat →
    (∀ d ∈ cs, d.typ ≠ k) →
    (∃ t, exec .docFind s = .next t ∧ t.code = .ok ∧ t.ch = none ∧ t.doc = s.doc) ∧
    (∃ t, exec .docRemove s = .next t ∧ t.code = .chunkNotFound ∧ t.ch = none ∧ t.doc = s.doc))

/-- R245: DOC.PARSE in every state, with its word: BadOperand; the code of `doc_parse` with DOC emptied and EADDR at the
failing record; StoreFull for any of the three capacities; else the document in DOC and its count in RES. -/
def Obligations.DocParseLoadsOrEmptiesDoc : Prop :=
  decode 0x40000000 = .ok .docParse ∧
  ∀ s : State,
    (s.cfg.imemSize < s.a0 + s.a1 → exec .docParse s = .next { s with code := .badOperand, res := 0 }) ∧
    (s.a0 + s.a1 ≤ s.cfg.imemSize → ∀ e off, docParse (s.imem.readBytes s.a0 s.a1) = .error (e, off) →
      exec .docParse s = .next { s with code := e, res := 0, doc := none, eaddr := s.a0 + off }) ∧
    (s.a0 + s.a1 ≤ s.cfg.imemSize → ∀ cs, docParse (s.imem.readBytes s.a0 s.a1) = .ok cs →
      ((∃ m, s.cfg.docChunksMax = some m ∧ m < cs.length) ∨
        (∃ m, s.cfg.docDataMax = some m ∧ m < (cs.map fun c => c.len.toNat).sum) ∨
        (∃ c ∈ cs, s.cfg.chDataMax < c.len.toNat) →
        exec .docParse s = .next { s with code := .storeFull, res := 0 }) ∧
      ((∀ m, s.cfg.docChunksMax = some m → cs.length ≤ m) →
        (∀ m, s.cfg.docDataMax = some m → (cs.map fun c => c.len.toNat).sum ≤ m) →
        (∀ c ∈ cs, c.len.toNat ≤ s.cfg.chDataMax) →
        exec .docParse s = .next { s with code := .ok, doc := some cs, res := cs.length }))

/-- R246, R247: DOC.COUNT and DOC.GET in every state, with their words. RES holds the count itself where it fits AW
bits; where it does not the spec states no value and RES is some AW-bit value (log entry 7, the model's choice). -/
def Obligations.DocumentReads : Prop :=
  decode 0x41000000 = .ok .docCount ∧ decode 0x42000000 = .ok .docGet ∧
  ∀ s : State,
    (s.doc = none → ∀ i ∈ [Instr.docCount, .docGet], exec i s = .next { s with code := .noValue, res := 0 }) ∧
    ∀ cs, s.doc = some cs →
      (∃ r, exec .docCount s = .next { s with code := .ok, res := r } ∧ r < 2 ^ s.cfg.aw ∧
        (cs.length < 2 ^ s.cfg.aw → r = cs.length)) ∧
      (cs.length ≤ s.a0 → exec .docGet s = .next { s with code := .badOperand, res := 0 }) ∧
      (∀ c, cs[s.a0]? = some c → exec .docGet s = .next { s with code := .ok, ch := some c, res := c.len.toNat })

/-- R248, R249, R250: DOC.FIND, DOC.APPEND and DOC.REMOVE in every state, with their words. An index or count in RES is
itself where it fits AW bits (log entry 7, the model's choice, where it does not). -/
def Obligations.DocumentStoreOperations : Prop :=
  decode 0x43000000 = .ok .docFind ∧ decode 0x44000000 = .ok .docAppend ∧ decode 0x45000000 = .ok .docRemove ∧
  ∀ s : State,
    (s.doc = none → ∀ i ∈ [Instr.docFind, .docAppend, .docRemove],
      exec i s = .next { s with code := .noValue, res := 0 }) ∧
    (s.ch = none → exec .docAppend s = .next { s with code := .noValue, res := 0 }) ∧
    ∀ cs, s.doc = some cs →
      (2 ^ 32 ≤ s.a0 → ∀ i ∈ [Instr.docFind, .docRemove],
        exec i s = .next { s with code := .badOperand, res := 0 }) ∧
      (∀ key i c, s.a0 = (fromBe32 key).toNat → findFirst cs key = some (i, c) →
        ∃ r, r < 2 ^ s.cfg.aw ∧ (i < 2 ^ s.cfg.aw → r = i) ∧
          exec .docFind s = .next { s with code := .ok, ch := some c, res := r } ∧
          exec .docRemove s =
            .next { s with code := .ok, ch := some c, doc := some (cs.take i ++ cs.drop (i + 1)), res := r }) ∧
      (∀ key, s.a0 = (fromBe32 key).toNat → findFirst cs key = none →
        exec .docRemove s = .next { s with code := .chunkNotFound, res := 0, ch := none } ∧
        ∃ r, r < 2 ^ s.cfg.aw ∧ (cs.length < 2 ^ s.cfg.aw → r = cs.length) ∧
          exec .docFind s = .next { s with code := .ok, ch := none, res := r }) ∧
      (∀ c, s.ch = some c →
        ((∃ m, s.cfg.docChunksMax = some m ∧ m < cs.length + 1) ∨
          (∃ m, s.cfg.docDataMax = some m ∧ m < (cs.map fun d => d.len.toNat).sum + c.len.toNat) →
          exec .docAppend s = .next { s with code := .storeFull, res := 0 }) ∧
        ((∀ m, s.cfg.docChunksMax = some m → cs.length + 1 ≤ m) →
          (∀ m, s.cfg.docDataMax = some m → (cs.map fun d => d.len.toNat).sum + c.len.toNat ≤ m) →
          ∃ r, r < 2 ^ s.cfg.aw ∧ (cs.length + 1 < 2 ^ s.cfg.aw → r = cs.length + 1) ∧
            exec .docAppend s = .next { s with code := .ok, doc := some (cs ++ [c]), ch := none, res := r }))

/-! ### Completion codes -/

/-- R7, R280: every command completes in every state; no command stops the machine. -/
def Obligations.EveryCommandCompletes : Prop :=
  ∀ (i : Instr) (s : State), ∃ t, exec i s = .next t

/-- R283: the effect of a completion with a code other than OK (that of BadCommand, which only an illegal word gives, is
the last clause). RES is 0 always; a refusal changes nothing but CODE and
RES; a source-defined failure besides empties only the result register of its command (T, CH or DOC), and only the
parse commands write EADDR. -/
def Obligations.FailingCommandChangesOnlyItsResult : Prop :=
  (∀ (i : Instr) (s t : State), exec i s = .next t → t.code ≠ .ok →
    t.res = 0 ∧
    (t.code ∈ [Code.badCommand, .badOperand, .noValue, .storeFull] → t = { s with code := t.code, res := 0 }) ∧
    (t.code ∉ [Code.badCommand, .badOperand, .noValue, .storeFull] →
      t.code ∈ [Code.invalidTypeCode, .truncatedChunk, .oversizedChunk, .crcMismatch, .badSignature, .chunkNotFound] ∧
      t = { s with
        code := t.code, res := 0, eaddr := t.eaddr
        t := if i = .tcSet4 ∨ i = .tcSets then none else s.t
        ch := if i = .chParse ∨ i = .docRemove then none else s.ch
        doc := if i = .docParse then none else s.doc } ∧
      (i ≠ .chParse → i ≠ .docParse → t.eaddr = s.eaddr))) ∧
  ∀ (w : Nat) (s : State) (e : DecodeError), decode w = .error e →
    issue w s = .next { s with code := .badCommand, res := 0 }

/-- R285: the codes each command can produce, row by row (`possibleCodes`); 7 and the codes above 11 never occur. -/
def Obligations.CodesEachCommandCanProduce : Prop :=
  (∀ (i : Instr) (s t : State), exec i s = .next t → t.code ∈ possibleCodes i) ∧
  (∀ i : Instr, Code.notUtf8 ∉ possibleCodes i ∧ Code.badCommand ∉ possibleCodes i)

/-- R22 and R35 (with R271 for SYS.RESET, log entry 8): no command but SYS.RESET changes A0 or A1, and no command
changes the build or what belongs to the host. -/
def Obligations.OperandsAndHostSideAreKept : Prop :=
  ∀ (i : Instr) (s t : State), exec i s = .next t →
    (i ≠ .sysReset → t.a0 = s.a0 ∧ t.a1 = s.a1) ∧ t.cfg = s.cfg ∧ t.pending = s.pending ∧ t.answers = s.answers

/-- R26 (with R271 for SYS.RESET, log entry 8): EADDR is written only by CH.PARSE and DOC.PARSE completing with one of
the five codes, and then holds the address of the failing record, or A0 for BadSignature. For DOC.PARSE the failing
record is the first one: what stands before it is the signature and whole records of valid chunks. -/
def Obligations.EaddrHoldsTheFailingRecord : Prop :=
  (∀ (i : Instr) (s t : State), exec i s = .next t → i ≠ .sysReset →
    ¬ ((i = .chParse ∨ i = .docParse) ∧
      t.code ∈ [Code.truncatedChunk, .oversizedChunk, .invalidTypeCode, .crcMismatch, .badSignature]) →
    t.eaddr = s.eaddr) ∧
  (∀ (s t : State), exec .chParse s = .next t →
    t.code ∈ [Code.truncatedChunk, .oversizedChunk, .invalidTypeCode, .crcMismatch] → t.eaddr = s.a0) ∧
  (∀ (s t : State), exec .docParse s = .next t → t.code = .badSignature → t.eaddr = s.a0) ∧
  (∀ (s t : State), exec .docParse s = .next t →
    t.code ∈ [Code.truncatedChunk, .oversizedChunk, .invalidTypeCode, .crcMismatch] →
    ∃ cs r, (∀ c ∈ cs, c.Valid ∧ c.len.toNat ≤ 2 ^ 31) ∧ s.imem.readBytes s.a0 s.a1 = docBytes cs ++ r ∧ r ≠ [] ∧
      parseRecord r = .error t.code ∧ t.eaddr = s.a0 + (docBytes cs).length)

/-- R33: what sets and what clears each valid bit; every other completion leaves it. -/
def Obligations.ValidBitsSetAndCleared : Prop :=
  ∀ (i : Instr) (s t : State), exec i s = .next t →
    ((i = .tcSet4 ∨ i = .tcSets ∨ i = .chType) ∧ t.code = .ok → t.tv = true) ∧
    (((i = .tcSet4 ∨ i = .tcSets) ∧ t.code = .invalidTypeCode) ∨ i = .sysReset → t.tv = false) ∧
    (i ∉ [Instr.tcSet4, .tcSets, .chType, .sysReset] ∨ t.code.isRefusal = true → t.t = s.t) ∧
    ((i = .chNew ∨ i = .chParse ∨ i = .docGet ∨ i = .docRemove) ∧ t.code = .ok → t.cv = true) ∧
    ((i = .chParse ∧ t.code ≠ .ok ∧ t.code.isRefusal = false) ∨ (i = .docRemove ∧ t.code = .chunkNotFound) ∨
      (i = .docAppend ∧ t.code = .ok) ∨ i = .sysReset → t.cv = false) ∧
    (i = .docFind → t.code = .ok → ∀ cs, s.doc = some cs →
      (t.cv = true ↔ ∃ c ∈ cs, c.typ = be32 (BitVec.ofNat 32 s.a0))) ∧
    (i ∉ [Instr.chNew, .chParse, .docGet, .docFind, .docRemove, .docAppend, .sysReset] ∨ t.code.isRefusal = true →
      t.ch = s.ch) ∧
    (i = .docParse ∧ t.code = .ok → t.dv = true) ∧
    ((i = .docParse ∧ t.code ≠ .ok ∧ t.code.isRefusal = false) ∨ i = .sysReset → t.dv = false) ∧
    (i ∉ [Instr.docParse, .sysReset] ∨ t.code.isRefusal = true → t.dv = s.dv)

/-- R282, R284 item 2: a command whose holding register holds no value completes NoValue, whatever its operands. -/
def Obligations.EmptyRegisterRefusesItsConsumers : Prop :=
  ∀ s : State,
    (s.t = none →
      ∀ i ∈ [Instr.tcBytes, .tcIsCrit, .tcIsPub, .tcIsRsv, .tcIsSafe, .tcIsValid, .tcRender, .chNew],
        exec i s = .next { s with code := .noValue, res := 0 }) ∧
    (s.ch = none → ∀ i ∈ [Instr.chEmit, .chLen, .chData, .chType, .chCrc, .docAppend],
      exec i s = .next { s with code := .noValue, res := 0 }) ∧
    (s.doc = none → ∀ i ∈ [Instr.docCount, .docGet, .docFind, .docAppend, .docRemove, .docEmit],
      exec i s = .next { s with code := .noValue, res := 0 })

/-- R290: after a source-defined failure of a constructor (and of DOC.REMOVE, which leaves CH empty too) every consumer
of its result register is refused with NoValue, and nothing but CODE and RES changes. -/
def Obligations.FailedConstructorBlocksItsConsumers : Prop :=
  ∀ (i : Instr) (s t : State), exec i s = .next t → t.code ≠ .ok → t.code.isRefusal = false →
    (i = .tcSet4 ∨ i = .tcSets →
      ∀ j ∈ [Instr.tcBytes, .tcIsCrit, .tcIsPub, .tcIsRsv, .tcIsSafe, .tcIsValid, .tcRender, .chNew],
        exec j t = .next { t with code := .noValue, res := 0 }) ∧
    (i = .chParse ∨ i = .docRemove →
      ∀ j ∈ [Instr.chEmit, .chLen, .chData, .chType, .chCrc, .docAppend],
        exec j t = .next { t with code := .noValue, res := 0 }) ∧
    (i = .docParse →
      ∀ j ∈ [Instr.docCount, .docGet, .docFind, .docAppend, .docRemove, .docEmit],
        exec j t = .next { t with code := .noValue, res := 0 })

/-- R284, its closing sentence: capacity can only turn a success into a refusal. Compare any build with one whose
capacities are unbounded and whose OMEM holds the output: where the first completes StoreFull the second completes OK,
and everywhere else the codes agree. -/
def Obligations.CapacityOnlyTurnsSuccessIntoRefusal : Prop :=
  ∀ (i : Instr) (s t u : State) (n : Nat), (∀ v, outputOf i s = some v → s.optr + v.length ≤ n) →
    exec i s = .next t →
    exec i { s with cfg := { s.cfg with
      omemSize := n, chDataMax := 2 ^ 32 - 1, docChunksMax := none, docDataMax := none } } = .next u →
    (t.code = .storeFull → u.code = .ok) ∧ (t.code ≠ .storeFull → u.code = t.code)

/-- R321: of the 30 commands, only these can complete OK while T, CH and DOC hold no value; every other one completes
NoValue. -/
def Obligations.EmptyMachineAcceptsOnlyTheseCommands : Prop :=
  ∀ (i : Instr) (s t : State), s.t = none → s.ch = none → s.doc = none → exec i s = .next t →
    (i ∈ [Instr.sysNop, .sysReset, .crcInit, .crcBuf, .crcFin, .crcCheck, .tcSet4, .tcSets, .chParse, .docParse] ∨
        ∃ b, i = .crcByte b) ∨
      t.code = .noValue

/-! ### Invariants -/

/-- R39: the invariants of T, CH and DOC (R30, R31, R32). Every step keeps them, from every state that has them, and so
every state reachable from a hardware reset by host operations has them. -/
def Obligations.HoldingRegisterInvariants : Prop :=
  (∀ s t : State, s.HoldingInv → step s = .next t → t.HoldingInv) ∧ ∀ s : State, Reachable s → s.HoldingInv

/-- Every step keeps the machine invariant: AW-bit registers (R8, R20, R27), a produced code (R110), the holding
registers' invariants (R39), and both memories canonical and inside their sizes (R60). -/
def Obligations.EveryStepKeepsTheMachineInvariant : Prop :=
  ∀ s t : State, s.Inv → step s = .next t → t.Inv

/-- The machine invariant holds after reset of every build R5 allows, whatever canonical contents the memories have, and
at `State.reset`. -/
def Obligations.InvariantHoldsAfterReset : Prop :=
  State.reset.Inv ∧
  ∀ (cfg : Config) (im om : Memory), cfg.wf = true → im.wf = true → im.within cfg.imemSize = true →
    om.wf = true → om.within cfg.omemSize = true → (State.launch cfg im om).Inv

/-- Two memories in canonical form that read the same at every address are the same data (the form 20_memory R60's
memories are held in), and every content of a memory of n bytes (R61: any value) has such a form inside n. -/
def Obligations.MemoriesAreTheirReads : Prop :=
  (∀ m m' : Memory, m.wf = true → m'.wf = true → (∀ a, m.readByte a = m'.readByte a) → m = m') ∧
  (∀ bytes : List Byte, ∃ m : Memory, m.wf = true ∧ m.within bytes.length = true ∧
    ∀ j (h : j < bytes.length), m.readByte j = bytes[j])
end

