-- ==== Sys2Proof/Laws/Bytes.lean ====
section
/-! SUPPORT. The big-endian conversions are inverse to each other (spec 00_scope R10). -/

namespace Sys2Proof

@[simp] theorem Quad.bytes_length (q : Quad) : q.bytes.length = 4 := rfl

theorem fromBe32_toNat (q : Quad) :
    (fromBe32 q).toNat = q.b0.toNat * 2 ^ 24 + q.b1.toNat * 2 ^ 16 + q.b2.toNat * 2 ^ 8 + q.b3.toNat := by
  have h0 := q.b0.isLt
  have h1 := q.b1.isLt
  have h2 := q.b2.isLt
  have h3 := q.b3.isLt
  rw [fromBe32, BitVec.toNat_ofNat]
  omega

/-- A natural below 2^32 from its four byte fields. -/
theorem bytes_of_nat {n : Nat} (h : n < 4294967296) :
    n / 16777216 % 256 * 16777216 + n / 65536 % 256 * 65536 + n / 256 % 256 * 256 + n % 256 = n := by
  omega

theorem be32_toNat (v : Word) :
    (be32 v).b0.toNat = v.toNat / 16777216 % 256 ∧ (be32 v).b1.toNat = v.toNat / 65536 % 256 ∧
      (be32 v).b2.toNat = v.toNat / 256 % 256 ∧ (be32 v).b3.toNat = v.toNat % 256 := by
  simp [be32, BitVec.extractLsb'_toNat, Nat.shiftRight_eq_div_pow]

/-- `from_be32(be32(v)) = v` (R10). -/
@[simp] theorem fromBe32_be32 (v : Word) : fromBe32 (be32 v) = v := by
  apply BitVec.eq_of_toNat_eq
  obtain ⟨h0, h1, h2, h3⟩ := be32_toNat v
  rw [fromBe32_toNat, h0, h1, h2, h3]
  exact bytes_of_nat v.isLt

/-- The other way round: no byte of the group is lost. -/
@[simp] theorem be32_fromBe32 (q : Quad) : be32 (fromBe32 q) = q := by
  obtain ⟨h0, h1, h2, h3⟩ := be32_toNat (fromBe32 q)
  rw [fromBe32_toNat] at h0 h1 h2 h3
  have l0 := q.b0.isLt
  have l1 := q.b1.isLt
  have l2 := q.b2.isLt
  have l3 := q.b3.isLt
  have e0 : (be32 (fromBe32 q)).b0 = q.b0 := BitVec.eq_of_toNat_eq (by omega)
  have e1 : (be32 (fromBe32 q)).b1 = q.b1 := BitVec.eq_of_toNat_eq (by omega)
  have e2 : (be32 (fromBe32 q)).b2 = q.b2 := BitVec.eq_of_toNat_eq (by omega)
  have e3 : (be32 (fromBe32 q)).b3 = q.b3 := BitVec.eq_of_toNat_eq (by omega)
  cases hq : be32 (fromBe32 q)
  cases q
  simp_all

/-- Reading four bytes back out of a sequence that begins with them. -/
@[simp] theorem quadAt_bytes_append (q : Quad) (s : List Byte) : quadAt (q.bytes ++ s) 0 = q := rfl

/-- Reading past a prefix. -/
theorem quadAt_append (p s : List Byte) (off : Nat) : quadAt (p ++ s) (p.length + off) = quadAt s off := by
  simp [quadAt, List.getD, List.getElem?_append_right, Nat.add_assoc]

theorem quadAt_bytes_eq_take {s : List Byte} {off : Nat} (h : off + 4 ≤ s.length) :
    (quadAt s off).bytes = (s.drop off).take 4 := by
  apply List.ext_getElem
  · simp [Nat.min_eq_left (show 4 ≤ s.length - off by omega)]
  · intro i h1 _
    rw [Quad.bytes_length] at h1
    have h' : off + i < s.length := by omega
    match i, h1 with
    | 0, _ | 1, _ | 2, _ | 3, _ => simp_all [quadAt, Quad.bytes, List.getD_eq_getElem?_getD]

end Sys2Proof
end

