-- ==== Sys2Proof/Laws/Memory.lean ====
section
/-! SUPPORT. Laws of the byte memories: every operation keeps the canonical form and the size, and what a read gives
after a write. -/

namespace Sys2Proof.Machine

@[simp] theorem Memory.readByte_nil (a : Nat) : Memory.readByte [] a = unlistedByte := rfl

@[simp] theorem Memory.readBytes_length (m : Memory) (a n : Nat) : (m.readBytes a n).length = n := by
  induction n generalizing a with
  | zero => rfl
  | succ n ih => simp [Memory.readBytes, ih]

/-- Byte i of `MemRead(a, n)` is the byte at `a + i` (R63). -/
theorem Memory.readBytes_getElem? (m : Memory) (a n i : Nat) :
    (m.readBytes a n)[i]? = if i < n then some (m.readByte (a + i)) else none := by
  induction n generalizing a i with
  | zero => simp [Memory.readBytes]
  | succ n ih =>
    cases i with
    | zero => simp [Memory.readBytes]
    | succ i => simp [Memory.readBytes, ih, Nat.add_assoc, Nat.add_comm 1]

/-- A canonical memory from a higher bound is canonical from a lower one. -/
theorem Memory.wfFrom_mono {lo lo' : Nat} (h : lo' ≤ lo) {m : Memory} (hm : Memory.wfFrom lo m = true) :
    Memory.wfFrom lo' m = true := by
  cases m with
  | nil => rfl
  | cons c m =>
    obtain ⟨k, b⟩ := c
    simp only [Memory.wfFrom, Bool.and_eq_true, decide_eq_true_eq] at hm ⊢
    exact ⟨⟨h.trans hm.1.1, hm.1.2⟩, hm.2⟩

/-- Below the least listed address a canonical memory reads as unlisted. -/
theorem Memory.readByte_below {lo a : Nat} {m : Memory} (hm : Memory.wfFrom lo m = true) (h : a < lo) :
    m.readByte a = unlistedByte := by
  induction m generalizing lo with
  | nil => rfl
  | cons c m ih =>
    obtain ⟨k, b⟩ := c
    simp only [Memory.wfFrom, Bool.and_eq_true, decide_eq_true_eq] at hm
    have hk : k ≠ a := by omega
    simp only [Memory.readByte, hk, if_false]
    exact ih hm.2 (by omega)

/-- A write keeps the canonical form from any bound the address respects. -/
theorem Memory.writeByte_wfFrom {lo a : Nat} {m : Memory} (v : Byte) (hm : Memory.wfFrom lo m = true) (h : lo ≤ a) :
    Memory.wfFrom lo (m.writeByte a v) = true := by
  induction m generalizing lo with
  | nil =>
    by_cases hv : v = unlistedByte <;> simp [Memory.writeByte, Memory.wfFrom, hv, h]
  | cons c m ih =>
    obtain ⟨k, b⟩ := c
    simp only [Memory.wfFrom, Bool.and_eq_true, decide_eq_true_eq] at hm
    obtain ⟨⟨hlo, hb⟩, hm'⟩ := hm
    simp only [Memory.writeByte]
    split_ifs with h1 h2 hv hv
    · simp [Memory.wfFrom, hlo, hb, ih hm' (by omega)]
    · exact Memory.wfFrom_mono (by omega) hm'
    · subst h2
      simp [Memory.wfFrom, h, hv, hm']
    · simp [Memory.wfFrom, hlo, hb, hm']
    · have hk : a + 1 ≤ k := by omega
      simp [Memory.wfFrom, h, hv, hk, hb, hm']

/-- A write keeps the canonical form. -/
theorem Memory.writeByte_wf {m : Memory} (a : Nat) (v : Byte) (hm : m.wf = true) : (m.writeByte a v).wf = true :=
  Memory.writeByte_wfFrom v hm (Nat.zero_le a)

/-- The byte written is read back, every other byte reads as before. -/
theorem Memory.readByte_writeByte_from {lo : Nat} {m : Memory} (a : Nat) (v : Byte) (x : Nat)
    (hm : Memory.wfFrom lo m = true) : (m.writeByte a v).readByte x = if x = a then v else m.readByte x := by
  induction m generalizing lo with
  | nil =>
    by_cases hv : v = unlistedByte
    · by_cases hx : x = a <;> simp [Memory.writeByte, hv, hx]
    · by_cases hx : x = a
      · simp [Memory.writeByte, hv, hx, Memory.readByte]
      · simp [Memory.writeByte, hv, hx, Ne.symm hx, Memory.readByte]
  | cons c m ih =>
    obtain ⟨k, b⟩ := c
    have hm0 := hm
    simp only [Memory.wfFrom, Bool.and_eq_true, decide_eq_true_eq] at hm
    obtain ⟨⟨hlo, hb⟩, hm'⟩ := hm
    simp only [Memory.writeByte]
    by_cases h1 : k < a
    · simp only [if_pos h1, Memory.readByte, ih hm']
      by_cases hk : k = x
      · simp [hk, show x ≠ a by omega]
      · simp [hk]
    by_cases h2 : k = a
    · subst h2
      by_cases hv : v = unlistedByte
      · by_cases hx : x = k
        · subst hx
          simp [hv, Memory.readByte_below hm' (Nat.lt_succ_self x)]
        · simp [hv, hx, Ne.symm hx, Memory.readByte]
      · by_cases hx : x = k
        · simp [hv, hx, Memory.readByte]
        · simp [hv, hx, Ne.symm hx, Memory.readByte]
    · by_cases hv : v = unlistedByte
      · by_cases hx : x = a
        · have hlow : Memory.wfFrom k ((k, b) :: m) = true := by simp [Memory.wfFrom, hb, hm']
          simp [h1, h2, hv, hx, Memory.readByte_below hlow (show a < k by omega)]
        · simp [h1, h2, hv, hx]
      · by_cases hx : x = a
        · simp [h1, h2, hv, hx, Memory.readByte]
        · simp [h1, h2, hv, hx, Ne.symm hx, Memory.readByte]

theorem Memory.within_cons (k : Nat) (b : Byte) (m : Memory) (size : Nat) :
    Memory.within ((k, b) :: m) size = true ↔ k < size ∧ Memory.within m size = true := by
  simp [Memory.within]

/-- A write inside the memory keeps every listed address inside it. -/
theorem Memory.writeByte_within {size a : Nat} {m : Memory} (v : Byte) (hm : m.within size = true) (h : a < size) :
    (m.writeByte a v).within size = true := by
  induction m with
  | nil =>
    by_cases hv : v = unlistedByte <;> simp [Memory.writeByte, Memory.within, hv, h]
  | cons c m ih =>
    obtain ⟨k, b⟩ := c
    rw [Memory.within_cons] at hm
    simp only [Memory.writeByte]
    split_ifs <;> simp [Memory.within_cons, hm, h, ih hm.2]

theorem Memory.writeBytes_wf {m : Memory} (a : Nat) (v : List Byte) (hm : m.wf = true) :
    (m.writeBytes a v).wf = true := by
  induction v generalizing m a with
  | nil => exact hm
  | cons b v ih => exact ih (a + 1) (Memory.writeByte_wf a b hm)

theorem Memory.writeBytes_within {size a : Nat} {m : Memory} {v : List Byte} (hm : m.within size = true)
    (h : a + v.length ≤ size) : (m.writeBytes a v).within size = true := by
  induction v generalizing m a with
  | nil => exact hm
  | cons b v ih =>
    simp only [List.length_cons] at h
    exact ih (Memory.writeByte_within b hm (by omega)) (by omega)

/-- Outside the bytes written every byte reads as before. -/
theorem Memory.readByte_writeBytes_outside {m : Memory} {a x : Nat} {v : List Byte} (hm : m.wf = true)
    (h : x < a ∨ a + v.length ≤ x) : (m.writeBytes a v).readByte x = m.readByte x := by
  induction v generalizing m a with
  | nil => rfl
  | cons b v ih =>
    simp only [List.length_cons] at h
    have hx : x ≠ a := by omega
    rw [Memory.writeBytes, ih (Memory.writeByte_wf a b hm) (by omega),
      Memory.readByte_writeByte_from a b x hm, if_neg hx]

/-- Byte i written at `a` reads back at `a + i`. -/
theorem Memory.readByte_writeBytes_inside {m : Memory} {a i : Nat} {v : List Byte} (hm : m.wf = true)
    (h : i < v.length) : (m.writeBytes a v).readByte (a + i) = v[i] := by
  induction v generalizing m a i with
  | nil => simp at h
  | cons b v ih =>
    cases i with
    | zero =>
      rw [Memory.writeBytes, Memory.readByte_writeBytes_outside (Memory.writeByte_wf a b hm) (by omega),
        Memory.readByte_writeByte_from a b _ hm]
      simp
    | succ i =>
      have h' : i < v.length := by simpa using h
      have e : a + (i + 1) = (a + 1) + i := by omega
      rw [Memory.writeBytes, e, ih (Memory.writeByte_wf a b hm) h']
      rfl

end Sys2Proof.Machine
end

