-- ==== Sys2Proof/Laws/State.lean ====
section
/-! SUPPORT. One lemma per field per update, so that no later proof unfolds a record update. -/

namespace Sys2Proof.Machine

variable (s : State)

section
variable (v : Code)
@[simp] theorem setCode_cfg : (s.setCode v).cfg = s.cfg := rfl
@[simp] theorem setCode_code : (s.setCode v).code = v := rfl
@[simp] theorem setCode_a0 : (s.setCode v).a0 = s.a0 := rfl
@[simp] theorem setCode_a1 : (s.setCode v).a1 = s.a1 := rfl
@[simp] theorem setCode_res : (s.setCode v).res = s.res := rfl
@[simp] theorem setCode_eaddr : (s.setCode v).eaddr = s.eaddr := rfl
@[simp] theorem setCode_optr : (s.setCode v).optr = s.optr := rfl
@[simp] theorem setCode_crcacc : (s.setCode v).crcacc = s.crcacc := rfl
@[simp] theorem setCode_t : (s.setCode v).t = s.t := rfl
@[simp] theorem setCode_ch : (s.setCode v).ch = s.ch := rfl
@[simp] theorem setCode_doc : (s.setCode v).doc = s.doc := rfl
@[simp] theorem setCode_imem : (s.setCode v).imem = s.imem := rfl
@[simp] theorem setCode_omem : (s.setCode v).omem = s.omem := rfl
@[simp] theorem setCode_pending : (s.setCode v).pending = s.pending := rfl
@[simp] theorem setCode_answers : (s.setCode v).answers = s.answers := rfl
end

section
variable (v : Nat)
@[simp] theorem setA0_cfg : (s.setA0 v).cfg = s.cfg := rfl
@[simp] theorem setA0_code : (s.setA0 v).code = s.code := rfl
@[simp] theorem setA0_a0 : (s.setA0 v).a0 = v := rfl
@[simp] theorem setA0_a1 : (s.setA0 v).a1 = s.a1 := rfl
@[simp] theorem setA0_res : (s.setA0 v).res = s.res := rfl
@[simp] theorem setA0_eaddr : (s.setA0 v).eaddr = s.eaddr := rfl
@[simp] theorem setA0_optr : (s.setA0 v).optr = s.optr := rfl
@[simp] theorem setA0_crcacc : (s.setA0 v).crcacc = s.crcacc := rfl
@[simp] theorem setA0_t : (s.setA0 v).t = s.t := rfl
@[simp] theorem setA0_ch : (s.setA0 v).ch = s.ch := rfl
@[simp] theorem setA0_doc : (s.setA0 v).doc = s.doc := rfl
@[simp] theorem setA0_imem : (s.setA0 v).imem = s.imem := rfl
@[simp] theorem setA0_omem : (s.setA0 v).omem = s.omem := rfl
@[simp] theorem setA0_pending : (s.setA0 v).pending = s.pending := rfl
@[simp] theorem setA0_answers : (s.setA0 v).answers = s.answers := rfl
end

section
variable (v : Nat)
@[simp] theorem setA1_cfg : (s.setA1 v).cfg = s.cfg := rfl
@[simp] theorem setA1_code : (s.setA1 v).code = s.code := rfl
@[simp] theorem setA1_a0 : (s.setA1 v).a0 = s.a0 := rfl
@[simp] theorem setA1_a1 : (s.setA1 v).a1 = v := rfl
@[simp] theorem setA1_res : (s.setA1 v).res = s.res := rfl
@[simp] theorem setA1_eaddr : (s.setA1 v).eaddr = s.eaddr := rfl
@[simp] theorem setA1_optr : (s.setA1 v).optr = s.optr := rfl
@[simp] theorem setA1_crcacc : (s.setA1 v).crcacc = s.crcacc := rfl
@[simp] theorem setA1_t : (s.setA1 v).t = s.t := rfl
@[simp] theorem setA1_ch : (s.setA1 v).ch = s.ch := rfl
@[simp] theorem setA1_doc : (s.setA1 v).doc = s.doc := rfl
@[simp] theorem setA1_imem : (s.setA1 v).imem = s.imem := rfl
@[simp] theorem setA1_omem : (s.setA1 v).omem = s.omem := rfl
@[simp] theorem setA1_pending : (s.setA1 v).pending = s.pending := rfl
@[simp] theorem setA1_answers : (s.setA1 v).answers = s.answers := rfl
end

section
variable (v : Nat)
@[simp] theorem setRes_cfg : (s.setRes v).cfg = s.cfg := rfl
@[simp] theorem setRes_code : (s.setRes v).code = s.code := rfl
@[simp] theorem setRes_a0 : (s.setRes v).a0 = s.a0 := rfl
@[simp] theorem setRes_a1 : (s.setRes v).a1 = s.a1 := rfl
@[simp] theorem setRes_res : (s.setRes v).res = v := rfl
@[simp] theorem setRes_eaddr : (s.setRes v).eaddr = s.eaddr := rfl
@[simp] theorem setRes_optr : (s.setRes v).optr = s.optr := rfl
@[simp] theorem setRes_crcacc : (s.setRes v).crcacc = s.crcacc := rfl
@[simp] theorem setRes_t : (s.setRes v).t = s.t := rfl
@[simp] theorem setRes_ch : (s.setRes v).ch = s.ch := rfl
@[simp] theorem setRes_doc : (s.setRes v).doc = s.doc := rfl
@[simp] theorem setRes_imem : (s.setRes v).imem = s.imem := rfl
@[simp] theorem setRes_omem : (s.setRes v).omem = s.omem := rfl
@[simp] theorem setRes_pending : (s.setRes v).pending = s.pending := rfl
@[simp] theorem setRes_answers : (s.setRes v).answers = s.answers := rfl
end

section
variable (v : Nat)
@[simp] theorem setEaddr_cfg : (s.setEaddr v).cfg = s.cfg := rfl
@[simp] theorem setEaddr_code : (s.setEaddr v).code = s.code := rfl
@[simp] theorem setEaddr_a0 : (s.setEaddr v).a0 = s.a0 := rfl
@[simp] theorem setEaddr_a1 : (s.setEaddr v).a1 = s.a1 := rfl
@[simp] theorem setEaddr_res : (s.setEaddr v).res = s.res := rfl
@[simp] theorem setEaddr_eaddr : (s.setEaddr v).eaddr = v := rfl
@[simp] theorem setEaddr_optr : (s.setEaddr v).optr = s.optr := rfl
@[simp] theorem setEaddr_crcacc : (s.setEaddr v).crcacc = s.crcacc := rfl
@[simp] theorem setEaddr_t : (s.setEaddr v).t = s.t := rfl
@[simp] theorem setEaddr_ch : (s.setEaddr v).ch = s.ch := rfl
@[simp] theorem setEaddr_doc : (s.setEaddr v).doc = s.doc := rfl
@[simp] theorem setEaddr_imem : (s.setEaddr v).imem = s.imem := rfl
@[simp] theorem setEaddr_omem : (s.setEaddr v).omem = s.omem := rfl
@[simp] theorem setEaddr_pending : (s.setEaddr v).pending = s.pending := rfl
@[simp] theorem setEaddr_answers : (s.setEaddr v).answers = s.answers := rfl
end

section
variable (v : Nat)
@[simp] theorem setOptr_cfg : (s.setOptr v).cfg = s.cfg := rfl
@[simp] theorem setOptr_code : (s.setOptr v).code = s.code := rfl
@[simp] theorem setOptr_a0 : (s.setOptr v).a0 = s.a0 := rfl
@[simp] theorem setOptr_a1 : (s.setOptr v).a1 = s.a1 := rfl
@[simp] theorem setOptr_res : (s.setOptr v).res = s.res := rfl
@[simp] theorem setOptr_eaddr : (s.setOptr v).eaddr = s.eaddr := rfl
@[simp] theorem setOptr_optr : (s.setOptr v).optr = v := rfl
@[simp] theorem setOptr_crcacc : (s.setOptr v).crcacc = s.crcacc := rfl
@[simp] theorem setOptr_t : (s.setOptr v).t = s.t := rfl
@[simp] theorem setOptr_ch : (s.setOptr v).ch = s.ch := rfl
@[simp] theorem setOptr_doc : (s.setOptr v).doc = s.doc := rfl
@[simp] theorem setOptr_imem : (s.setOptr v).imem = s.imem := rfl
@[simp] theorem setOptr_omem : (s.setOptr v).omem = s.omem := rfl
@[simp] theorem setOptr_pending : (s.setOptr v).pending = s.pending := rfl
@[simp] theorem setOptr_answers : (s.setOptr v).answers = s.answers := rfl
end

section
variable (v : Word)
@[simp] theorem setCrcacc_cfg : (s.setCrcacc v).cfg = s.cfg := rfl
@[simp] theorem setCrcacc_code : (s.setCrcacc v).code = s.code := rfl
@[simp] theorem setCrcacc_a0 : (s.setCrcacc v).a0 = s.a0 := rfl
@[simp] theorem setCrcacc_a1 : (s.setCrcacc v).a1 = s.a1 := rfl
@[simp] theorem setCrcacc_res : (s.setCrcacc v).res = s.res := rfl
@[simp] theorem setCrcacc_eaddr : (s.setCrcacc v).eaddr = s.eaddr := rfl
@[simp] theorem setCrcacc_optr : (s.setCrcacc v).optr = s.optr := rfl
@[simp] theorem setCrcacc_crcacc : (s.setCrcacc v).crcacc = v := rfl
@[simp] theorem setCrcacc_t : (s.setCrcacc v).t = s.t := rfl
@[simp] theorem setCrcacc_ch : (s.setCrcacc v).ch = s.ch := rfl
@[simp] theorem setCrcacc_doc : (s.setCrcacc v).doc = s.doc := rfl
@[simp] theorem setCrcacc_imem : (s.setCrcacc v).imem = s.imem := rfl
@[simp] theorem setCrcacc_omem : (s.setCrcacc v).omem = s.omem := rfl
@[simp] theorem setCrcacc_pending : (s.setCrcacc v).pending = s.pending := rfl
@[simp] theorem setCrcacc_answers : (s.setCrcacc v).answers = s.answers := rfl
end

section
variable (v : Option Quad)
@[simp] theorem setT_cfg : (s.setT v).cfg = s.cfg := rfl
@[simp] theorem setT_code : (s.setT v).code = s.code := rfl
@[simp] theorem setT_a0 : (s.setT v).a0 = s.a0 := rfl
@[simp] theorem setT_a1 : (s.setT v).a1 = s.a1 := rfl
@[simp] theorem setT_res : (s.setT v).res = s.res := rfl
@[simp] theorem setT_eaddr : (s.setT v).eaddr = s.eaddr := rfl
@[simp] theorem setT_optr : (s.setT v).optr = s.optr := rfl
@[simp] theorem setT_crcacc : (s.setT v).crcacc = s.crcacc := rfl
@[simp] theorem setT_t : (s.setT v).t = v := rfl
@[simp] theorem setT_ch : (s.setT v).ch = s.ch := rfl
@[simp] theorem setT_doc : (s.setT v).doc = s.doc := rfl
@[simp] theorem setT_imem : (s.setT v).imem = s.imem := rfl
@[simp] theorem setT_omem : (s.setT v).omem = s.omem := rfl
@[simp] theorem setT_pending : (s.setT v).pending = s.pending := rfl
@[simp] theorem setT_answers : (s.setT v).answers = s.answers := rfl
end

section
variable (v : Option Chunk)
@[simp] theorem setCh_cfg : (s.setCh v).cfg = s.cfg := rfl
@[simp] theorem setCh_code : (s.setCh v).code = s.code := rfl
@[simp] theorem setCh_a0 : (s.setCh v).a0 = s.a0 := rfl
@[simp] theorem setCh_a1 : (s.setCh v).a1 = s.a1 := rfl
@[simp] theorem setCh_res : (s.setCh v).res = s.res := rfl
@[simp] theorem setCh_eaddr : (s.setCh v).eaddr = s.eaddr := rfl
@[simp] theorem setCh_optr : (s.setCh v).optr = s.optr := rfl
@[simp] theorem setCh_crcacc : (s.setCh v).crcacc = s.crcacc := rfl
@[simp] theorem setCh_t : (s.setCh v).t = s.t := rfl
@[simp] theorem setCh_ch : (s.setCh v).ch = v := rfl
@[simp] theorem setCh_doc : (s.setCh v).doc = s.doc := rfl
@[simp] theorem setCh_imem : (s.setCh v).imem = s.imem := rfl
@[simp] theorem setCh_omem : (s.setCh v).omem = s.omem := rfl
@[simp] theorem setCh_pending : (s.setCh v).pending = s.pending := rfl
@[simp] theorem setCh_answers : (s.setCh v).answers = s.answers := rfl
end

section
variable (v : Option (List Chunk))
@[simp] theorem setDoc_cfg : (s.setDoc v).cfg = s.cfg := rfl
@[simp] theorem setDoc_code : (s.setDoc v).code = s.code := rfl
@[simp] theorem setDoc_a0 : (s.setDoc v).a0 = s.a0 := rfl
@[simp] theorem setDoc_a1 : (s.setDoc v).a1 = s.a1 := rfl
@[simp] theorem setDoc_res : (s.setDoc v).res = s.res := rfl
@[simp] theorem setDoc_eaddr : (s.setDoc v).eaddr = s.eaddr := rfl
@[simp] theorem setDoc_optr : (s.setDoc v).optr = s.optr := rfl
@[simp] theorem setDoc_crcacc : (s.setDoc v).crcacc = s.crcacc := rfl
@[simp] theorem setDoc_t : (s.setDoc v).t = s.t := rfl
@[simp] theorem setDoc_ch : (s.setDoc v).ch = s.ch := rfl
@[simp] theorem setDoc_doc : (s.setDoc v).doc = v := rfl
@[simp] theorem setDoc_imem : (s.setDoc v).imem = s.imem := rfl
@[simp] theorem setDoc_omem : (s.setDoc v).omem = s.omem := rfl
@[simp] theorem setDoc_pending : (s.setDoc v).pending = s.pending := rfl
@[simp] theorem setDoc_answers : (s.setDoc v).answers = s.answers := rfl
end

section
variable (v : Memory)
@[simp] theorem setImem_cfg : (s.setImem v).cfg = s.cfg := rfl
@[simp] theorem setImem_code : (s.setImem v).code = s.code := rfl
@[simp] theorem setImem_a0 : (s.setImem v).a0 = s.a0 := rfl
@[simp] theorem setImem_a1 : (s.setImem v).a1 = s.a1 := rfl
@[simp] theorem setImem_res : (s.setImem v).res = s.res := rfl
@[simp] theorem setImem_eaddr : (s.setImem v).eaddr = s.eaddr := rfl
@[simp] theorem setImem_optr : (s.setImem v).optr = s.optr := rfl
@[simp] theorem setImem_crcacc : (s.setImem v).crcacc = s.crcacc := rfl
@[simp] theorem setImem_t : (s.setImem v).t = s.t := rfl
@[simp] theorem setImem_ch : (s.setImem v).ch = s.ch := rfl
@[simp] theorem setImem_doc : (s.setImem v).doc = s.doc := rfl
@[simp] theorem setImem_imem : (s.setImem v).imem = v := rfl
@[simp] theorem setImem_omem : (s.setImem v).omem = s.omem := rfl
@[simp] theorem setImem_pending : (s.setImem v).pending = s.pending := rfl
@[simp] theorem setImem_answers : (s.setImem v).answers = s.answers := rfl
end

section
variable (v : Memory)
@[simp] theorem setOmem_cfg : (s.setOmem v).cfg = s.cfg := rfl
@[simp] theorem setOmem_code : (s.setOmem v).code = s.code := rfl
@[simp] theorem setOmem_a0 : (s.setOmem v).a0 = s.a0 := rfl
@[simp] theorem setOmem_a1 : (s.setOmem v).a1 = s.a1 := rfl
@[simp] theorem setOmem_res : (s.setOmem v).res = s.res := rfl
@[simp] theorem setOmem_eaddr : (s.setOmem v).eaddr = s.eaddr := rfl
@[simp] theorem setOmem_optr : (s.setOmem v).optr = s.optr := rfl
@[simp] theorem setOmem_crcacc : (s.setOmem v).crcacc = s.crcacc := rfl
@[simp] theorem setOmem_t : (s.setOmem v).t = s.t := rfl
@[simp] theorem setOmem_ch : (s.setOmem v).ch = s.ch := rfl
@[simp] theorem setOmem_doc : (s.setOmem v).doc = s.doc := rfl
@[simp] theorem setOmem_imem : (s.setOmem v).imem = s.imem := rfl
@[simp] theorem setOmem_omem : (s.setOmem v).omem = v := rfl
@[simp] theorem setOmem_pending : (s.setOmem v).pending = s.pending := rfl
@[simp] theorem setOmem_answers : (s.setOmem v).answers = s.answers := rfl
end

section
variable (v : List HostOp)
@[simp] theorem setPending_cfg : (s.setPending v).cfg = s.cfg := rfl
@[simp] theorem setPending_code : (s.setPending v).code = s.code := rfl
@[simp] theorem setPending_a0 : (s.setPending v).a0 = s.a0 := rfl
@[simp] theorem setPending_a1 : (s.setPending v).a1 = s.a1 := rfl
@[simp] theorem setPending_res : (s.setPending v).res = s.res := rfl
@[simp] theorem setPending_eaddr : (s.setPending v).eaddr = s.eaddr := rfl
@[simp] theorem setPending_optr : (s.setPending v).optr = s.optr := rfl
@[simp] theorem setPending_crcacc : (s.setPending v).crcacc = s.crcacc := rfl
@[simp] theorem setPending_t : (s.setPending v).t = s.t := rfl
@[simp] theorem setPending_ch : (s.setPending v).ch = s.ch := rfl
@[simp] theorem setPending_doc : (s.setPending v).doc = s.doc := rfl
@[simp] theorem setPending_imem : (s.setPending v).imem = s.imem := rfl
@[simp] theorem setPending_omem : (s.setPending v).omem = s.omem := rfl
@[simp] theorem setPending_pending : (s.setPending v).pending = v := rfl
@[simp] theorem setPending_answers : (s.setPending v).answers = s.answers := rfl
end

section
variable (v : List Answer)
@[simp] theorem setAnswers_cfg : (s.setAnswers v).cfg = s.cfg := rfl
@[simp] theorem setAnswers_code : (s.setAnswers v).code = s.code := rfl
@[simp] theorem setAnswers_a0 : (s.setAnswers v).a0 = s.a0 := rfl
@[simp] theorem setAnswers_a1 : (s.setAnswers v).a1 = s.a1 := rfl
@[simp] theorem setAnswers_res : (s.setAnswers v).res = s.res := rfl
@[simp] theorem setAnswers_eaddr : (s.setAnswers v).eaddr = s.eaddr := rfl
@[simp] theorem setAnswers_optr : (s.setAnswers v).optr = s.optr := rfl
@[simp] theorem setAnswers_crcacc : (s.setAnswers v).crcacc = s.crcacc := rfl
@[simp] theorem setAnswers_t : (s.setAnswers v).t = s.t := rfl
@[simp] theorem setAnswers_ch : (s.setAnswers v).ch = s.ch := rfl
@[simp] theorem setAnswers_doc : (s.setAnswers v).doc = s.doc := rfl
@[simp] theorem setAnswers_imem : (s.setAnswers v).imem = s.imem := rfl
@[simp] theorem setAnswers_omem : (s.setAnswers v).omem = s.omem := rfl
@[simp] theorem setAnswers_pending : (s.setAnswers v).pending = s.pending := rfl
@[simp] theorem setAnswers_answers : (s.setAnswers v).answers = v := rfl
end

end Sys2Proof.Machine
end

