-- ==== Sys2Proof/Laws/Ops.lean ====
section
/-! SUPPORT. What each shared operation can do, said once: the two ways a command completes, the operand checks, the
output operation, and the count a register holds. -/

namespace Sys2Proof.Machine

theorem completeOk_next {s t : State} : completeOk s = .next t ↔ t = s.setCode .ok := by
  simp [completeOk, eq_comm]

theorem raise_next {c : Code} {s t : State} : raise c s = .next t ↔ t = (s.setCode c).setRes 0 := by
  simp [raise, eq_comm]

/-- A slice operand: BadOperand, or the bytes of a slice that lies in IMEM. -/
theorem withSlice_cases (s : State) (k : List Byte → Result) :
    (s.cfg.imemSize < s.a0 + s.a1 ∧ withSlice s k = raise .badOperand s) ∨
      (s.a0 + s.a1 ≤ s.cfg.imemSize ∧ withSlice s k = k s.slice) := by
  by_cases h : s.a0 + s.a1 ≤ s.cfg.imemSize
  · exact .inr ⟨h, by simp [withSlice, State.sliceInBounds, h]⟩
  · exact .inl ⟨by omega, by simp [withSlice, State.sliceInBounds, h]⟩

/-- A strict 32-bit operand: BadOperand, or the value of A0. -/
theorem withWord_cases (s : State) (k : Word → Result) :
    (2 ^ 32 ≤ s.a0 ∧ withWord s k = raise .badOperand s) ∨
      (s.a0 < 2 ^ 32 ∧ withWord s k = k (BitVec.ofNat 32 s.a0)) := by
  by_cases h : s.a0 < 2 ^ 32
  · exact .inr ⟨h, by rw [withWord, if_pos h]⟩
  · exact .inl ⟨by omega, by rw [withWord, if_neg h]⟩

/-- A packed operand: BadOperand, or the four bytes of A0. -/
theorem withPacked_cases (s : State) (k : Quad → Result) :
    (2 ^ 32 ≤ s.a0 ∧ withPacked s k = raise .badOperand s) ∨
      (s.a0 < 2 ^ 32 ∧ withPacked s k = k (be32 (BitVec.ofNat 32 s.a0))) :=
  withWord_cases s fun w => k (be32 w)

theorem withT_cases (s : State) (k : Quad → Result) :
    (s.t = none ∧ withT s k = raise .noValue s) ∨ ∃ b, s.t = some b ∧ withT s k = k b := by
  cases h : s.t with
  | none => exact .inl ⟨rfl, by simp [withT, h]⟩
  | some b => exact .inr ⟨b, rfl, by simp [withT, h]⟩

theorem withCh_cases (s : State) (k : Chunk → Result) :
    (s.ch = none ∧ withCh s k = raise .noValue s) ∨ ∃ c, s.ch = some c ∧ withCh s k = k c := by
  cases h : s.ch with
  | none => exact .inl ⟨rfl, by simp [withCh, h]⟩
  | some c => exact .inr ⟨c, rfl, by simp [withCh, h]⟩

theorem withDoc_cases (s : State) (k : List Chunk → Result) :
    (s.doc = none ∧ withDoc s k = raise .noValue s) ∨ ∃ cs, s.doc = some cs ∧ withDoc s k = k cs := by
  cases h : s.doc with
  | none => exact .inl ⟨rfl, by simp [withDoc, h]⟩
  | some cs => exact .inr ⟨cs, rfl, by simp [withDoc, h]⟩

/-! ### Each check, one way at a time: rewrite with these where the state is known -/

theorem withSlice_of_in {s : State} (k : List Byte → Result) (h : s.a0 + s.a1 ≤ s.cfg.imemSize) :
    withSlice s k = k (s.imem.readBytes s.a0 s.a1) := by simp [withSlice, State.sliceInBounds, State.slice, h]

theorem withSlice_of_out {s : State} (k : List Byte → Result) (h : s.cfg.imemSize < s.a0 + s.a1) :
    withSlice s k = raise .badOperand s := by simp [withSlice, State.sliceInBounds, Nat.not_le.mpr h]

theorem withWord_of_wide {s : State} (k : Word → Result) (h : 2 ^ 32 ≤ s.a0) :
    withWord s k = raise .badOperand s := if_neg (Nat.not_lt.mpr h)

theorem withPacked_of_wide {s : State} (k : Quad → Result) (h : 2 ^ 32 ≤ s.a0) :
    withPacked s k = raise .badOperand s := withWord_of_wide _ h

theorem withPacked_of_narrow {s : State} (k : Quad → Result) (h : s.a0 < 2 ^ 32) :
    withPacked s k = k (be32 (BitVec.ofNat 32 s.a0)) := if_pos h

/-- The packed operand of an A0 that holds four bytes is those bytes (R105). -/
theorem withPacked_of_quad {s : State} {q : Quad} (k : Quad → Result) (h : s.a0 = (fromBe32 q).toNat) :
    withPacked s k = k q := by
  have h32 : s.a0 < 2 ^ 32 := by rw [h]; exact (fromBe32 q).isLt
  rw [withPacked, withWord, if_pos h32, h, BitVec.ofNat_toNat, BitVec.setWidth_eq, be32_fromBe32]

theorem withT_none {s : State} (k : Quad → Result) (h : s.t = none) : withT s k = raise .noValue s := by
  simp [withT, h]

theorem withT_some {s : State} {q : Quad} (k : Quad → Result) (h : s.t = some q) : withT s k = k q := by
  simp [withT, h]

theorem withCh_none {s : State} (k : Chunk → Result) (h : s.ch = none) : withCh s k = raise .noValue s := by
  simp [withCh, h]

theorem withCh_some {s : State} {c : Chunk} (k : Chunk → Result) (h : s.ch = some c) : withCh s k = k c := by
  simp [withCh, h]

theorem withDoc_none {s : State} (k : List Chunk → Result) (h : s.doc = none) : withDoc s k = raise .noValue s := by
  simp [withDoc, h]

theorem withDoc_some {s : State} {cs : List Chunk} (k : List Chunk → Result) (h : s.doc = some cs) :
    withDoc s k = k cs := by simp [withDoc, h]

/-- The output operation: StoreFull, or the bytes at OPTR, OPTR advanced and the count in RES (R65, R66). -/
theorem emit_cases (v : List Byte) (s : State) :
    (s.cfg.omemSize < s.optr + v.length ∧ emit v s = raise .storeFull s) ∨
      (s.optr + v.length ≤ s.cfg.omemSize ∧
        emit v s = .next { s with
          omem := s.omem.writeBytes s.optr v, optr := s.optr + v.length, res := v.length, code := .ok }) := by
  by_cases h : s.optr + v.length ≤ s.cfg.omemSize
  · exact .inr ⟨h, by simp only [emit, if_pos h]; rfl⟩
  · exact .inl ⟨by omega, by simp only [emit, if_neg h]⟩

/-- A count that fits AW bits is held as it is. -/
theorem countValue_of_fits {cfg : Config} {n : Nat} (h : n < 2 ^ cfg.aw) : countValue cfg n = n := if_pos h

/-- Whatever the free value is, a count held in RES fits AW bits. -/
theorem countValue_fits (cfg : Config) (n : Nat) : countValue cfg n < 2 ^ cfg.aw := by
  by_cases h : n < 2 ^ cfg.aw
  · rwa [countValue_of_fits h]
  · simp only [countValue, if_neg h]
    exact BitVec.isLt _

@[simp] theorem exceeds_none (n : Nat) : exceeds n none = false := rfl

@[simp] theorem exceeds_some (n m : Nat) : exceeds n (some m) = decide (m < n) := rfl

end Sys2Proof.Machine
end

