-- ==== Sys2Proof/Laws/Framing.lean ====
section
/-! SUPPORT. What the framer's functions give (spec 42_chunk_framer R192, R193, R196). -/

namespace Sys2Proof.Machine

/-- A record's size is 12 plus its data (R91). -/
theorem chunkBytes_length (c : Chunk) : (chunkBytes c).length = 12 + c.data.length := by
  simp only [chunkBytes, List.length_append, Quad.bytes_length]
  omega

/-- When `parse_record` succeeds, and with what (the steps of R196 read forwards). -/
theorem parseRecord_ok {s : List Byte} {c : Chunk} {k : Nat} (h : parseRecord s = .ok (c, k)) :
    (fromBe32 (quadAt s 0)).toNat ≤ lenCeiling ∧ isTypeCode (quadAt s 4) = true ∧
      12 + (fromBe32 (quadAt s 0)).toNat ≤ s.length ∧ k = 12 + (fromBe32 (quadAt s 0)).toNat ∧
      c.typ = quadAt s 4 ∧ c.len = fromBe32 (quadAt s 0) ∧ c.data = (s.drop 8).take c.len.toNat ∧
      c.crc = crc32 (c.typ.bytes ++ c.data) ∧ c.crc = fromBe32 (quadAt s (8 + c.len.toNat)) := by
  simp only [parseRecord, Bool.not_eq_true'] at h
  split_ifs at h with h1 h2 h3 h4 h5 h6
  cases h
  simp only [ne_eq, Decidable.not_not, Bool.not_eq_false] at h3 h6
  exact ⟨by omega, h3, by omega, rfl, rfl, rfl, rfl, rfl, h6⟩

/-- `parse_record` succeeds whenever its five tests pass (R196). -/
theorem parseRecord_of_tests {s : List Byte} (h1 : 12 ≤ s.length) (h2 : (fromBe32 (quadAt s 0)).toNat ≤ lenCeiling)
    (h3 : isTypeCode (quadAt s 4) = true) (h4 : 12 + (fromBe32 (quadAt s 0)).toNat ≤ s.length)
    (h5 : crc32 ((quadAt s 4).bytes ++ (s.drop 8).take (fromBe32 (quadAt s 0)).toNat)
      = fromBe32 (quadAt s (8 + (fromBe32 (quadAt s 0)).toNat))) :
    parseRecord s = .ok
      ({ typ := quadAt s 4, data := (s.drop 8).take (fromBe32 (quadAt s 0)).toNat, len := fromBe32 (quadAt s 0),
         crc := crc32 ((quadAt s 4).bytes ++ (s.drop 8).take (fromBe32 (quadAt s 0)).toNat) },
       12 + (fromBe32 (quadAt s 0)).toNat) := by
  simp only [parseRecord]
  rw [if_neg (by omega), if_neg (by omega), h3, if_neg (by simp), if_neg (by omega), if_neg (by omega),
    if_neg (by simpa using h5)]

/-- The codes a failing parse gives (R196). -/
theorem parseRecord_error {s : List Byte} {e : Code} (h : parseRecord s = .error e) :
    e = .truncatedChunk ∨ e = .oversizedChunk ∨ e = .invalidTypeCode ∨ e = .crcMismatch := by
  simp only [parseRecord] at h
  split_ifs at h <;> cases h <;> simp

/-- A successful parse consumes at least 12 bytes and no more than it was given (R233). -/
theorem parseRecord_consumed {s : List Byte} {c : Chunk} {k : Nat} (h : parseRecord s = .ok (c, k)) :
    12 ≤ k ∧ k ≤ s.length ∧ k = 12 + c.len.toNat := by
  obtain ⟨-, -, h4, rfl, -, hl, -⟩ := parseRecord_ok h
  exact ⟨by omega, h4, by rw [hl]⟩

/-- The data of a parsed chunk has the declared length. -/
theorem parseRecord_data_length {s : List Byte} {c : Chunk} {k : Nat} (h : parseRecord s = .ok (c, k)) :
    c.len.toNat = c.data.length := by
  obtain ⟨-, -, h4, -, -, hl, hd, -⟩ := parseRecord_ok h
  rw [hd, List.length_take, List.length_drop, hl]
  omega

end Sys2Proof.Machine
end

