-- ==== Sys2Proof/Laws/Sequencing.lean ====
section
/-! SUPPORT. What the sequencer's functions give (spec 43_document R232 to R238). -/

namespace Sys2Proof.Machine

theorem recordsBytes_append (cs ds : List Chunk) : recordsBytes (cs ++ ds) = recordsBytes cs ++ recordsBytes ds := by
  induction cs with
  | nil => rfl
  | cons c cs ih => simp [recordsBytes, ih]

theorem dataTotal_append (cs ds : List Chunk) : dataTotal (cs ++ ds) = dataTotal cs + dataTotal ds := by
  induction cs with
  | nil => simp [dataTotal]
  | cons c cs ih => simp [dataTotal, ih, Nat.add_assoc]

/-- One turn of the loop of `doc_parse` (R233). -/
theorem docRecords_turn {fuel pos : Nat} {s : List Byte} (hs : s ≠ []) :
    docRecords (fuel + 1) pos s =
      match parseRecord s with
      | .error code => .error (code, pos)
      | .ok (c, k) =>
        match docRecords fuel (pos + k) (s.drop k) with
        | .error e => .error e
        | .ok cs => .ok (c :: cs) := by
  cases s with
  | nil => exact absurd rfl hs
  | cons b rest => rfl

/-- More fuel than bytes left changes nothing, so the fuel is no part of what `doc_parse` means. -/
theorem docRecords_fuel {f g pos : Nat} {s : List Byte} (hf : s.length ≤ f) (hg : s.length ≤ g) :
    docRecords f pos s = docRecords g pos s := by
  induction f generalizing g pos s with
  | zero =>
    cases s with
    | nil => cases g <;> rfl
    | cons b rest => simp at hf
  | succ f ih =>
    cases s with
    | nil => cases g <;> rfl
    | cons b rest =>
      cases g with
      | zero => simp at hg
      | succ g =>
        rw [docRecords_turn (by simp), docRecords_turn (by simp)]
        cases hp : parseRecord (b :: rest) with
        | error e => rfl
        | ok r =>
          obtain ⟨c, k⟩ := r
          have hk := (parseRecord_consumed hp).1
          have hl : ((b :: rest).drop k).length ≤ rest.length := by simp; omega
          simp only [List.length_cons] at hf hg
          simp only [ih (g := g) (pos := pos + k) (s := (b :: rest).drop k) (by omega) (by omega)]

/-- The records of a successful loop fill the bytes it was given: at most one per 12 bytes. -/
theorem docRecords_count {f pos : Nat} {s : List Byte} {cs : List Chunk} (h : docRecords f pos s = .ok cs) :
    12 * cs.length ≤ s.length := by
  induction f generalizing pos s cs with
  | zero =>
    cases s with
    | nil => cases h; simp
    | cons b rest => cases h
  | succ f ih =>
    cases s with
    | nil => cases h; simp
    | cons b rest =>
      rw [docRecords_turn (by simp)] at h
      cases hp : parseRecord (b :: rest) with
      | error e => simp [hp] at h
      | ok r =>
        obtain ⟨c, k⟩ := r
        have hk := parseRecord_consumed hp
        simp only [hp] at h
        cases hr : docRecords f (pos + k) ((b :: rest).drop k) with
        | error e => simp [hr] at h
        | ok ds =>
          simp only [hr, Except.ok.injEq] at h
          have := ih hr
          subst h
          simp only [List.length_drop, List.length_cons] at *
          omega

/-- A failing loop gives a record's code and an offset inside the buffer. -/
theorem docRecords_error {f pos : Nat} {s : List Byte} {e : Code} {off : Nat}
    (h : docRecords f pos s = .error (e, off)) :
    (e = .truncatedChunk ∨ e = .oversizedChunk ∨ e = .invalidTypeCode ∨ e = .crcMismatch) ∧
      pos ≤ off ∧ off < pos + s.length := by
  induction f generalizing pos s with
  | zero =>
    cases s with
    | nil => cases h
    | cons b rest => cases h; simp
  | succ f ih =>
    cases s with
    | nil => cases h
    | cons b rest =>
      rw [docRecords_turn (by simp)] at h
      cases hp : parseRecord (b :: rest) with
      | error c =>
        simp only [hp, Except.error.injEq, Prod.mk.injEq] at h
        obtain ⟨rfl, rfl⟩ := h
        exact ⟨parseRecord_error hp, by simp⟩
      | ok r =>
        obtain ⟨c, k⟩ := r
        have hk := parseRecord_consumed hp
        simp only [hp] at h
        cases hr : docRecords f (pos + k) ((b :: rest).drop k) with
        | ok ds => simp [hr] at h
        | error e' =>
          simp only [hr, Except.error.injEq] at h
          subst h
          have := ih hr
          simp only [List.length_drop] at this
          exact ⟨this.1, by omega, by omega⟩

/-- The codes and offsets of a failing `doc_parse` (R233). -/
theorem docParse_error {s : List Byte} {e : Code} {off : Nat} (h : docParse s = .error (e, off)) :
    (e = .badSignature ∧ off = 0) ∨
      ((e = .truncatedChunk ∨ e = .oversizedChunk ∨ e = .invalidTypeCode ∨ e = .crcMismatch) ∧
        8 ≤ off ∧ off < s.length) := by
  simp only [docParse] at h
  split_ifs at h with hs
  · have := docRecords_error h
    simp only [List.length_drop] at this
    exact .inr ⟨this.1, by omega, by omega⟩
  · cases h
    exact .inl ⟨rfl, rfl⟩

/-- `find_first` names the chunk at its index. -/
theorem findFirst_getElem? {cs : List Chunk} {k : Quad} {i : Nat} {c : Chunk} (h : findFirst cs k = some (i, c)) :
    cs[i]? = some c := by
  induction cs generalizing i c with
  | nil => cases h
  | cons d ds ih =>
    simp only [findFirst] at h
    split_ifs at h
    · cases h; rfl
    · cases hr : findFirst ds k with
      | none => simp [hr] at h
      | some p =>
        obtain ⟨j, e⟩ := p
        simp only [hr, Option.some.injEq, Prod.mk.injEq] at h
        obtain ⟨rfl, rfl⟩ := h
        simpa using ih hr

/-- The chunk found is one of the sequence and has the key as its type. -/
theorem findFirst_mem {cs : List Chunk} {k : Quad} {i : Nat} {c : Chunk} (h : findFirst cs k = some (i, c)) :
    c ∈ cs ∧ c.typ = k := by
  induction cs generalizing i c with
  | nil => cases h
  | cons d ds ih =>
    simp only [findFirst] at h
    split_ifs at h with hd
    · cases h; simp [hd]
    · cases hr : findFirst ds k with
      | none => simp [hr] at h
      | some p =>
        obtain ⟨j, e⟩ := p
        simp only [hr, Option.some.injEq, Prod.mk.injEq] at h
        obtain ⟨rfl, rfl⟩ := h
        have := ih hr
        exact ⟨List.mem_cons_of_mem _ this.1, this.2⟩

/-- Nothing found: no chunk has the key as its type. -/
theorem findFirst_none {cs : List Chunk} {k : Quad} : findFirst cs k = none ↔ ∀ c ∈ cs, c.typ ≠ k := by
  induction cs with
  | nil => simp [findFirst]
  | cons d ds ih =>
    simp only [findFirst]
    split_ifs with hd
    · simp [hd]
    · cases hr : findFirst ds k with
      | none => simpa [hd] using ih.mp hr
      | some p =>
        obtain ⟨j, e⟩ := p
        have := findFirst_mem hr
        simp only [reduceCtorEq, List.mem_cons, forall_eq_or_imp, false_iff, not_and, not_forall]
        exact fun _ => ⟨e, this.1, by simp [this.2]⟩

/-- Taking a chunk out leaves only chunks that were there. -/
theorem mem_withoutIndex {cs : List Chunk} {i : Nat} {c : Chunk} (h : c ∈ withoutIndex cs i) : c ∈ cs := by
  rcases List.mem_append.mp h with h | h
  · exact List.mem_of_mem_take h
  · exact List.mem_of_mem_drop h

end Sys2Proof.Machine
end

