-- ==== Sys2Proof/Laws/Commands.lean ====
section
/-! SUPPORT. The ways each command with more than one check can end, with the checks that lead there (the order of
spec 60_exceptions R284). The commands over one shared operation have their cases in Laws/Ops.lean. -/

namespace Sys2Proof.Machine

theorem execCrcBuf_cases (s : State) :
    (s.cfg.imemSize < s.a0 + s.a1 ∧ execCrcBuf s = raise .badOperand s) ∨
      (s.a0 + s.a1 ≤ s.cfg.imemSize ∧
        execCrcBuf s = completeOk (s.setCrcacc (crcUpdate s.crcacc (s.imem.readBytes s.a0 s.a1)))) :=
  withSlice_cases s _

theorem execCrcCheck_cases (s : State) :
    (2 ^ 32 ≤ s.a0 ∧ execCrcCheck s = raise .badOperand s) ∨
      (s.a0 < 2 ^ 32 ∧ s.crcacc ^^^ crcOnes ≠ BitVec.ofNat 32 s.a0 ∧ execCrcCheck s = raise .crcMismatch s) ∨
      (s.a0 < 2 ^ 32 ∧ s.crcacc ^^^ crcOnes = BitVec.ofNat 32 s.a0 ∧ execCrcCheck s = completeOk (s.setRes 1)) := by
  rcases withWord_cases s fun v => if s.crcacc ^^^ crcOnes = v then completeOk (s.setRes 1) else raise .crcMismatch s
    with ⟨h, e⟩ | ⟨h, e⟩
  · exact .inl ⟨h, e⟩
  · by_cases hv : s.crcacc ^^^ crcOnes = BitVec.ofNat 32 s.a0
    · exact .inr (.inr ⟨h, hv, e.trans (if_pos hv)⟩)
    · exact .inr (.inl ⟨h, hv, e.trans (if_neg hv)⟩)

theorem constructT_cases (b : Quad) (s : State) :
    (isTypeCode b = true ∧ constructT b s = completeOk (s.setT (some b))) ∨
      (isTypeCode b = false ∧ constructT b s = raise .invalidTypeCode (s.setT none)) := by
  cases h : isTypeCode b <;> simp [constructT, h]

theorem execTcSet4_cases (s : State) :
    (2 ^ 32 ≤ s.a0 ∧ execTcSet4 s = raise .badOperand s) ∨
      (∃ b, s.a0 = (fromBe32 b).toNat ∧ isTypeCode b = true ∧ execTcSet4 s = completeOk (s.setT (some b))) ∨
      (∃ b, s.a0 = (fromBe32 b).toNat ∧ isTypeCode b = false ∧
        execTcSet4 s = raise .invalidTypeCode (s.setT none)) := by
  rcases withPacked_cases s fun b => constructT b s with ⟨h, e⟩ | ⟨h, e⟩
  · exact .inl ⟨h, e⟩
  · have hb : s.a0 = (fromBe32 (be32 (BitVec.ofNat 32 s.a0))).toNat := by
      rw [fromBe32_be32, BitVec.toNat_ofNat, Nat.mod_eq_of_lt h]
    rcases constructT_cases (be32 (BitVec.ofNat 32 s.a0)) s with ⟨hl, e'⟩ | ⟨hl, e'⟩
    · exact .inr (.inl ⟨_, hb, hl, e.trans e'⟩)
    · exact .inr (.inr ⟨_, hb, hl, e.trans e'⟩)

theorem execTcSets_cases (s : State) :
    (s.cfg.imemSize < s.a0 + s.a1 ∧ execTcSets s = raise .badOperand s) ∨
      (s.a0 + s.a1 ≤ s.cfg.imemSize ∧ (s.a1 = 4 → isTypeCode (quadAt (s.imem.readBytes s.a0 4) 0) = false) ∧
        execTcSets s = raise .invalidTypeCode (s.setT none)) ∨
      (s.a0 + s.a1 ≤ s.cfg.imemSize ∧ s.a1 = 4 ∧ isTypeCode (quadAt (s.imem.readBytes s.a0 4) 0) = true ∧
        execTcSets s = completeOk (s.setT (some (quadAt (s.imem.readBytes s.a0 4) 0)))) := by
  rcases withSlice_cases s fun bytes =>
      if s.a1 ≠ 4 then raise .invalidTypeCode (s.setT none) else constructT (quadAt bytes 0) s with ⟨h, e⟩ | ⟨h, e⟩
  · exact .inl ⟨h, e⟩
  · by_cases h4 : s.a1 = 4
    · have hs : s.slice = s.imem.readBytes s.a0 4 := by rw [State.slice, h4]
      rw [if_neg (by simp [h4]), hs] at e
      rcases constructT_cases (quadAt (s.imem.readBytes s.a0 4) 0) s with ⟨hl, e'⟩ | ⟨hl, e'⟩
      · exact .inr (.inr ⟨h, h4, hl, e.trans e'⟩)
      · exact .inr (.inl ⟨h, fun _ => hl, e.trans e'⟩)
    · exact .inr (.inl ⟨h, fun h' => absurd h' h4, e.trans (if_pos h4)⟩)

theorem readProperty_cases (p : Quad → Bool) (s : State) :
    (s.t = none ∧ readProperty p s = raise .noValue s) ∨
      ∃ b, s.t = some b ∧ readProperty p s = completeOk (s.setRes (p b).toNat) :=
  withT_cases s _

theorem execChNew_cases (s : State) :
    (s.t = none ∧ execChNew s = raise .noValue s) ∨
      ∃ q, s.t = some q ∧
        ((s.cfg.imemSize < s.a0 + s.a1 ∨ 2 ^ 32 - 1 < s.a1) ∧ execChNew s = raise .badOperand s ∨
          s.a0 + s.a1 ≤ s.cfg.imemSize ∧ s.a1 ≤ 2 ^ 32 - 1 ∧
            (s.cfg.chDataMax < s.a1 ∧ execChNew s = raise .storeFull s ∨
              s.a1 ≤ s.cfg.chDataMax ∧
                execChNew s = completeOk ((s.setCh (some (chunkNew q (s.imem.readBytes s.a0 s.a1)))).setRes
                  (chunkNew q (s.imem.readBytes s.a0 s.a1)).crc.toNat))) := by
  cases ht : s.t with
  | none => exact .inl ⟨rfl, withT_none _ ht⟩
  | some q =>
    refine .inr ⟨q, rfl, ?_⟩
    rw [execChNew, withT_some _ ht]
    by_cases h : s.a0 + s.a1 ≤ s.cfg.imemSize
    · rw [withSlice_of_in _ h]
      by_cases hl : 2 ^ 32 - 1 < s.a1
      · exact .inl ⟨.inr hl, if_pos hl⟩
      · rw [if_neg hl]
        by_cases hm : s.cfg.chDataMax < s.a1
        · exact .inr ⟨h, Nat.not_lt.mp hl, .inl ⟨hm, if_pos hm⟩⟩
        · exact .inr ⟨h, Nat.not_lt.mp hl, .inr ⟨Nat.not_lt.mp hm, if_neg hm⟩⟩
    · exact .inl ⟨.inl (Nat.not_le.mp h), withSlice_of_out _ (Nat.not_le.mp h)⟩

theorem execChParse_cases (s : State) :
    (s.cfg.imemSize < s.a0 + s.a1 ∧ execChParse s = raise .badOperand s) ∨
      s.a0 + s.a1 ≤ s.cfg.imemSize ∧
        ((∃ e, parseRecord (s.imem.readBytes s.a0 s.a1) = .error e ∧
            execChParse s = raise e ((s.setCh none).setEaddr s.a0)) ∨
          ∃ c k, parseRecord (s.imem.readBytes s.a0 s.a1) = .ok (c, k) ∧
            (s.cfg.chDataMax < c.len.toNat ∧ execChParse s = raise .storeFull s ∨
              c.len.toNat ≤ s.cfg.chDataMax ∧ execChParse s = completeOk ((s.setCh (some c)).setRes k))) := by
  by_cases h : s.a0 + s.a1 ≤ s.cfg.imemSize
  · refine .inr ⟨h, ?_⟩
    rw [execChParse, withSlice_of_in _ h]
    cases hp : parseRecord (s.imem.readBytes s.a0 s.a1) with
    | error e => exact .inl ⟨e, rfl, rfl⟩
    | ok p =>
      by_cases hm : s.cfg.chDataMax < p.1.len.toNat
      · exact .inr ⟨p.1, p.2, rfl, .inl ⟨hm, if_pos hm⟩⟩
      · exact .inr ⟨p.1, p.2, rfl, .inr ⟨Nat.not_lt.mp hm, if_neg hm⟩⟩
  · exact .inl ⟨Nat.not_le.mp h, withSlice_of_out _ (Nat.not_le.mp h)⟩

/-- The three capacities DOC.PARSE tests (R245). -/
theorem passesCapacity_eq_false {cfg : Config} {cs : List Chunk} :
    passesCapacity cfg cs = false ↔
      exceeds cs.length cfg.docChunksMax = false ∧ exceeds (dataTotal cs) cfg.docDataMax = false ∧
        ∀ c ∈ cs, c.len.toNat ≤ cfg.chDataMax := by
  simp [passesCapacity, and_assoc]

theorem execDocParse_cases (s : State) :
    (s.cfg.imemSize < s.a0 + s.a1 ∧ execDocParse s = raise .badOperand s) ∨
      s.a0 + s.a1 ≤ s.cfg.imemSize ∧
        ((∃ e off, docParse (s.imem.readBytes s.a0 s.a1) = .error (e, off) ∧
            execDocParse s = raise e ((s.setDoc none).setEaddr (s.a0 + off))) ∨
          ∃ cs, docParse (s.imem.readBytes s.a0 s.a1) = .ok cs ∧
            (passesCapacity s.cfg cs = true ∧ execDocParse s = raise .storeFull s ∨
              passesCapacity s.cfg cs = false ∧
                execDocParse s = completeOk ((s.setDoc (some cs)).setRes cs.length))) := by
  by_cases h : s.a0 + s.a1 ≤ s.cfg.imemSize
  · refine .inr ⟨h, ?_⟩
    rw [execDocParse, withSlice_of_in _ h]
    cases hp : docParse (s.imem.readBytes s.a0 s.a1) with
    | error e => exact .inl ⟨e.1, e.2, rfl, rfl⟩
    | ok cs =>
      refine .inr ⟨cs, rfl, ?_⟩
      cases hc : passesCapacity s.cfg cs <;> simp [hc]
  · exact .inl ⟨Nat.not_le.mp h, withSlice_of_out _ (Nat.not_le.mp h)⟩

theorem execDocGet_cases (s : State) :
    (s.doc = none ∧ execDocGet s = raise .noValue s) ∨
      ∃ cs, s.doc = some cs ∧
        (cs[s.a0]? = none ∧ execDocGet s = raise .badOperand s ∨
          ∃ c, cs[s.a0]? = some c ∧ execDocGet s = completeOk ((s.setCh (some c)).setRes c.len.toNat)) := by
  cases hd : s.doc with
  | none => exact .inl ⟨rfl, withDoc_none _ hd⟩
  | some cs =>
    refine .inr ⟨cs, rfl, ?_⟩
    rw [execDocGet, withDoc_some _ hd]
    cases hc : cs[s.a0]? <;> simp

theorem execDocFind_cases (s : State) :
    (s.doc = none ∧ execDocFind s = raise .noValue s) ∨
      ∃ cs, s.doc = some cs ∧
        (2 ^ 32 ≤ s.a0 ∧ execDocFind s = raise .badOperand s ∨
          s.a0 < 2 ^ 32 ∧
            ((∃ i c, findFirst cs (be32 (BitVec.ofNat 32 s.a0)) = some (i, c) ∧
                execDocFind s = completeOk ((s.setCh (some c)).setRes (countValue s.cfg i))) ∨
              findFirst cs (be32 (BitVec.ofNat 32 s.a0)) = none ∧
                execDocFind s = completeOk ((s.setCh none).setRes (countValue s.cfg cs.length)))) := by
  cases hd : s.doc with
  | none => exact .inl ⟨rfl, withDoc_none _ hd⟩
  | some cs =>
    refine .inr ⟨cs, rfl, ?_⟩
    rw [execDocFind, withDoc_some _ hd]
    by_cases h : s.a0 < 2 ^ 32
    · refine .inr ⟨h, ?_⟩
      rw [withPacked_of_narrow _ h]
      cases hf : findFirst cs (be32 (BitVec.ofNat 32 s.a0)) with
      | none => exact .inr ⟨rfl, rfl⟩
      | some p => exact .inl ⟨p.1, p.2, rfl, rfl⟩
    · exact .inl ⟨Nat.not_lt.mp h, withPacked_of_wide _ (Nat.not_lt.mp h)⟩

theorem execDocAppend_cases (s : State) :
    ((s.doc = none ∨ s.ch = none) ∧ execDocAppend s = raise .noValue s) ∨
      ∃ cs c, s.doc = some cs ∧ s.ch = some c ∧
        ((exceeds (cs.length + 1) s.cfg.docChunksMax = true ∨
            exceeds (dataTotal cs + c.len.toNat) s.cfg.docDataMax = true) ∧ execDocAppend s = raise .storeFull s ∨
          exceeds (cs.length + 1) s.cfg.docChunksMax = false ∧
            exceeds (dataTotal cs + c.len.toNat) s.cfg.docDataMax = false ∧
            execDocAppend s =
              completeOk (((s.setDoc (some (cs ++ [c]))).setCh none).setRes (countValue s.cfg (cs.length + 1)))) := by
  cases hd : s.doc with
  | none => exact .inl ⟨.inl rfl, withDoc_none _ hd⟩
  | some cs =>
    rw [execDocAppend, withDoc_some _ hd]
    cases hc : s.ch with
    | none => exact .inl ⟨.inr rfl, withCh_none _ hc⟩
    | some c =>
      refine .inr ⟨cs, c, rfl, rfl, ?_⟩
      rw [withCh_some _ hc]
      cases h1 : exceeds (cs.length + 1) s.cfg.docChunksMax <;>
        cases h2 : exceeds (dataTotal cs + c.len.toNat) s.cfg.docDataMax <;> simp

theorem execDocRemove_cases (s : State) :
    (s.doc = none ∧ execDocRemove s = raise .noValue s) ∨
      ∃ cs, s.doc = some cs ∧
        (2 ^ 32 ≤ s.a0 ∧ execDocRemove s = raise .badOperand s ∨
          s.a0 < 2 ^ 32 ∧
            ((∃ i c, findFirst cs (be32 (BitVec.ofNat 32 s.a0)) = some (i, c) ∧
                execDocRemove s = completeOk
                  (((s.setCh (some c)).setDoc (some (withoutIndex cs i))).setRes (countValue s.cfg i))) ∨
              findFirst cs (be32 (BitVec.ofNat 32 s.a0)) = none ∧
                execDocRemove s = raise .chunkNotFound (s.setCh none))) := by
  cases hd : s.doc with
  | none => exact .inl ⟨rfl, withDoc_none _ hd⟩
  | some cs =>
    refine .inr ⟨cs, rfl, ?_⟩
    rw [execDocRemove, withDoc_some _ hd]
    by_cases h : s.a0 < 2 ^ 32
    · refine .inr ⟨h, ?_⟩
      rw [withPacked_of_narrow _ h, removeFirst]
      cases hf : findFirst cs (be32 (BitVec.ofNat 32 s.a0)) with
      | none => exact .inr ⟨rfl, rfl⟩
      | some p => exact .inl ⟨p.1, p.2, rfl, rfl⟩
    · exact .inl ⟨Nat.not_lt.mp h, withPacked_of_wide _ (Nat.not_lt.mp h)⟩

end Sys2Proof.Machine
end

