-- ==== Sys2Proof/Laws/PerInstr.lean ====
section
/-! SUPPORT. Per-instruction family WordFields: the fields of every command's word (spec 30_encoding R99 to R101). -/

namespace Sys2Proof.Laws.WordFields

open Sys2Proof

/-- The word has the opcode of R102 in bits 31:24, zeros in bits 23:8, and in bits 7:0 the immediate. -/
def Statement (i : Instr) : Prop :=
  bitField (encode i).toNat 31 24 = i.opcode ∧ bitField (encode i).toNat 23 8 = 0 ∧
    bitField (encode i).toNat 7 0 = i.imm.toNat

theorem sysNop : Statement .sysNop := ⟨rfl, rfl, rfl⟩

theorem sysReset : Statement .sysReset := ⟨rfl, rfl, rfl⟩

theorem crcInit : Statement .crcInit := ⟨rfl, rfl, rfl⟩

theorem crcByte (imm8 : Byte) : Statement (.crcByte imm8) := by
  have h := imm8.isLt
  simp only [Statement, encode, Instr.opcode, Instr.imm, bitField, BitVec.toNat_ofNat]
  omega

theorem crcBuf : Statement .crcBuf := ⟨rfl, rfl, rfl⟩

theorem crcFin : Statement .crcFin := ⟨rfl, rfl, rfl⟩

theorem crcCheck : Statement .crcCheck := ⟨rfl, rfl, rfl⟩

theorem tcSet4 : Statement .tcSet4 := ⟨rfl, rfl, rfl⟩

theorem tcSets : Statement .tcSets := ⟨rfl, rfl, rfl⟩

theorem tcBytes : Statement .tcBytes := ⟨rfl, rfl, rfl⟩

theorem tcIsCrit : Statement .tcIsCrit := ⟨rfl, rfl, rfl⟩

theorem tcIsPub : Statement .tcIsPub := ⟨rfl, rfl, rfl⟩

theorem tcIsRsv : Statement .tcIsRsv := ⟨rfl, rfl, rfl⟩

theorem tcIsSafe : Statement .tcIsSafe := ⟨rfl, rfl, rfl⟩

theorem tcIsValid : Statement .tcIsValid := ⟨rfl, rfl, rfl⟩

theorem tcRender : Statement .tcRender := ⟨rfl, rfl, rfl⟩

theorem chNew : Statement .chNew := ⟨rfl, rfl, rfl⟩

theorem chParse : Statement .chParse := ⟨rfl, rfl, rfl⟩

theorem chEmit : Statement .chEmit := ⟨rfl, rfl, rfl⟩

theorem chLen : Statement .chLen := ⟨rfl, rfl, rfl⟩

theorem chData : Statement .chData := ⟨rfl, rfl, rfl⟩

theorem chType : Statement .chType := ⟨rfl, rfl, rfl⟩

theorem chCrc : Statement .chCrc := ⟨rfl, rfl, rfl⟩

theorem docParse : Statement .docParse := ⟨rfl, rfl, rfl⟩

theorem docCount : Statement .docCount := ⟨rfl, rfl, rfl⟩

theorem docGet : Statement .docGet := ⟨rfl, rfl, rfl⟩

theorem docFind : Statement .docFind := ⟨rfl, rfl, rfl⟩

theorem docAppend : Statement .docAppend := ⟨rfl, rfl, rfl⟩

theorem docRemove : Statement .docRemove := ⟨rfl, rfl, rfl⟩

theorem docEmit : Statement .docEmit := ⟨rfl, rfl, rfl⟩

end Sys2Proof.Laws.WordFields
end

