-- ==== Sys2Proof/Laws/Step.lean ====
section
/-! SUPPORT. What a host operation and a step can do, said once (spec 44_system R272 to R275, 70_reset R320). -/

namespace Sys2Proof.Machine

/-- A step that goes on performed the host's next operation. -/
theorem step_next {s t : State} (h : step s = .next t) :
    ∃ op rest, s.pending = op :: rest ∧ hostStep op (s.setPending rest) = .next t := by
  unfold step at h
  cases hp : s.pending with
  | nil => simp [hp] at h
  | cons op rest => exact ⟨op, rest, rfl, by simpa [hp] using h⟩

/-- Issuing a word runs its command or completes BadCommand. -/
theorem issue_cases (w : Nat) (s : State) :
    (∃ e, decode w = .error e ∧ issue w s = raise .badCommand s) ∨ ∃ i, decode w = .ok i ∧ issue w s = exec i s := by
  cases h : decode w with
  | error e => exact .inl ⟨e, rfl, by simp [issue, h]⟩
  | ok i => exact .inr ⟨i, rfl, by simp [issue, h]⟩

/-- What a host operation that has a meaning does: it issues a command, writes A0, A1, OPTR or IMEM, is ignored, hands
an answer to the host, or resets the machine. -/
theorem hostStep_next {op : HostOp} {s t : State} (h : hostStep op s = .next t) :
    (∃ w, op = .wr 0 w ∧ w < 2 ^ s.cfg.aw ∧ issue w s = .next t) ∨
    (∃ v, op = .wr 2 v ∧ v < 2 ^ s.cfg.aw ∧ t = s.setA0 v) ∨
    (∃ v, op = .wr 3 v ∧ v < 2 ^ s.cfg.aw ∧ t = s.setA1 v) ∨
    (∃ v, op = .wr 6 v ∧ v < 2 ^ s.cfg.aw ∧ t = s.setOptr v) ∨
    (∃ n v, op = .wr n v ∧ (n = 1 ∨ n = 4 ∨ n = 5 ∨ n = 7) ∧ t = s) ∨
    (∃ a bs, op = .writeImem a bs ∧ a + bs.length ≤ s.cfg.imemSize ∧ t = s.setImem (s.imem.writeBytes a bs)) ∨
    (∃ ans, t = s.setAnswers (ans :: s.answers)) ∨
    (∃ imem omem, op = .hardReset imem omem ∧ t = s.hardReset imem omem) := by
  cases op with
  | wr n v =>
    simp only [hostStep] at h
    split_ifs at h with hv
    match n, h with
    | 0, h => exact .inl ⟨v, rfl, hv, h⟩
    | 2, h => cases h; exact .inr (.inl ⟨v, rfl, hv, rfl⟩)
    | 3, h => cases h; exact .inr (.inr (.inl ⟨v, rfl, hv, rfl⟩))
    | 6, h => cases h; exact .inr (.inr (.inr (.inl ⟨v, rfl, hv, rfl⟩)))
    | 1, h => cases h; exact .inr (.inr (.inr (.inr (.inl ⟨1, v, rfl, by simp, rfl⟩))))
    | 4, h => cases h; exact .inr (.inr (.inr (.inr (.inl ⟨4, v, rfl, by simp, rfl⟩))))
    | 5, h => cases h; exact .inr (.inr (.inr (.inr (.inl ⟨5, v, rfl, by simp, rfl⟩))))
    | 7, h => cases h; exact .inr (.inr (.inr (.inr (.inl ⟨7, v, rfl, by simp, rfl⟩))))
    | n + 8, h => cases h
  | rd n =>
    simp only [hostStep] at h
    cases hr : readRegister n s with
    | none => simp [hr] at h
    | some v =>
      simp only [hr, answer] at h
      cases h
      exact .inr (.inr (.inr (.inr (.inr (.inr (.inl ⟨_, rfl⟩))))))
  | writeImem a bs =>
    simp only [hostStep] at h
    split_ifs at h with hb
    cases h
    exact .inr (.inr (.inr (.inr (.inr (.inl ⟨a, bs, rfl, hb, rfl⟩)))))
  | readImem a n =>
    simp only [hostStep] at h
    split_ifs at h with hb
    cases h
    exact .inr (.inr (.inr (.inr (.inr (.inr (.inl ⟨_, rfl⟩))))))
  | readOmem a b =>
    simp only [hostStep] at h
    split_ifs at h with hb
    cases h
    exact .inr (.inr (.inr (.inr (.inr (.inr (.inl ⟨_, rfl⟩))))))
  | hardReset imem omem =>
    cases h
    exact .inr (.inr (.inr (.inr (.inr (.inr (.inr ⟨imem, omem, rfl, rfl⟩))))))

/-- The memory a hardware reset brings is canonical and inside its size. -/
theorem Memory.ofBytes_wf (size : Nat) (bytes : List Byte) : (Memory.ofBytes size bytes).wf = true :=
  Memory.writeBytes_wf 0 _ rfl

theorem Memory.ofBytes_within (size : Nat) (bytes : List Byte) : (Memory.ofBytes size bytes).within size = true :=
  Memory.writeBytes_within rfl (by simp)

end Sys2Proof.Machine
end

