-- ==== Sys2Proof/Tests/Slice0.lean ====
section
/-! SUPPORT. The model's own small tests. Every expected value is one the spec writes out: an encoding of 30_encoding
R102, an example of a command rule, or a vector of 95_test_vectors (named beside the test). One step each. -/

namespace Sys2Proof.Tests

open Sys2Proof.Machine

/-! ### WellFormed smoke: one ill-formed term for each check -/

theorem test_wf_suggested_build : Config.suggested.wf = true := by decide
theorem test_illformed_aw : ({ Config.suggested with aw := 32 } : Config).wf = false := by decide
theorem test_illformed_imemSize_zero : ({ Config.suggested with imemSize := 0 } : Config).wf = false := by decide
theorem test_illformed_imemSize_wide :
    ({ Config.suggested with imemSize := 2 ^ 64 } : Config).wf = false := by decide
theorem test_illformed_omemSize_zero : ({ Config.suggested with omemSize := 0 } : Config).wf = false := by decide
theorem test_illformed_omemSize_wide :
    ({ Config.suggested with omemSize := 2 ^ 64 } : Config).wf = false := by decide
theorem test_illformed_chDataMax : ({ Config.suggested with chDataMax := 2 ^ 32 } : Config).wf = false := by decide
theorem test_illformed_wr_register : HostOp.wf Config.suggested (.wr 8 0) = false := by decide
theorem test_illformed_wr_value : HostOp.wf Config.suggested (.wr 2 (2 ^ 64)) = false := by decide
theorem test_illformed_rd_register : HostOp.wf Config.suggested (.rd 8) = false := by decide
theorem test_illformed_writeImem : HostOp.wf Config.suggested (.writeImem 4096 [0]) = false := by decide
theorem test_illformed_readImem : HostOp.wf Config.suggested (.readImem 4090 7) = false := by decide
theorem test_illformed_readOmem_order : HostOp.wf Config.suggested (.readOmem 5 4) = false := by decide
theorem test_illformed_readOmem_end : HostOp.wf Config.suggested (.readOmem 0 4097) = false := by decide
theorem test_wf_instr : Instr.wf (.crcByte 0xFF) = true := by decide

/-! ### Decoding: every row's word written out from R102, and the illegal words of V101 to V105 -/

theorem test_decode_system :
    decode 0x00000000 = .ok .sysNop ∧
      decode 0x01000000 = .ok .sysReset := by
  refine ⟨rfl, rfl⟩

theorem test_decode_crc :
    decode 0x10000000 = .ok .crcInit ∧
      decode 0x11000052 = .ok (.crcByte 0x52) ∧
      decode 0x110000FF = .ok (.crcByte 0xFF) ∧
      decode 0x12000000 = .ok .crcBuf ∧
      decode 0x13000000 = .ok .crcFin ∧
      decode 0x14000000 = .ok .crcCheck := by
  refine ⟨rfl, rfl, rfl, rfl, rfl, rfl⟩

theorem test_decode_typecode :
    decode 0x20000000 = .ok .tcSet4 ∧
      decode 0x21000000 = .ok .tcSets ∧
      decode 0x22000000 = .ok .tcBytes ∧
      decode 0x23000000 = .ok .tcIsCrit ∧
      decode 0x24000000 = .ok .tcIsPub ∧
      decode 0x25000000 = .ok .tcIsRsv ∧
      decode 0x26000000 = .ok .tcIsSafe ∧
      decode 0x27000000 = .ok .tcIsValid ∧
      decode 0x28000000 = .ok .tcRender := by
  refine ⟨rfl, rfl, rfl, rfl, rfl, rfl, rfl, rfl, rfl⟩

theorem test_decode_chunk :
    decode 0x30000000 = .ok .chNew ∧
      decode 0x31000000 = .ok .chParse ∧
      decode 0x32000000 = .ok .chEmit ∧
      decode 0x33000000 = .ok .chLen ∧
      decode 0x34000000 = .ok .chData ∧
      decode 0x35000000 = .ok .chType ∧
      decode 0x36000000 = .ok .chCrc := by
  refine ⟨rfl, rfl, rfl, rfl, rfl, rfl, rfl⟩

theorem test_decode_document :
    decode 0x40000000 = .ok .docParse ∧
      decode 0x41000000 = .ok .docCount ∧
      decode 0x42000000 = .ok .docGet ∧
      decode 0x43000000 = .ok .docFind ∧
      decode 0x44000000 = .ok .docAppend ∧
      decode 0x45000000 = .ok .docRemove ∧
      decode 0x46000000 = .ok .docEmit := by
  refine ⟨rfl, rfl, rfl, rfl, rfl, rfl, rfl⟩

/-- V101, V102, V103, V105: an immediate on a format N command, an unused opcode, a reserved bit, a bit above 31. -/
theorem test_decode_illegal :
    decode 0x00000001 = .error .strayImmediate ∧ decode 0x47000000 = .error .unknownOpcode ∧
      decode 0x15000000 = .error .unknownOpcode ∧ decode 0x11000152 = .error .reservedBits ∧
      decode 0x100000000 = .error .bitsAbove31 := ⟨rfl, rfl, rfl, rfl, rfl⟩

/-- The word of CRC.BYTE 0x52 as program P1 writes it. -/
theorem test_encode_crcByte : encode (.crcByte 0x52) = 0x11000052 := by decide

theorem test_decodeTableWord : decodeTableWord 32 0x46000000 = some .docEmit := by decide

/-! ### A small machine -/

/-- IEND, RuSt, tEXt, Ru1t as four bytes (V2, V52, V54). -/
def qIEND : Quad := ⟨0x49, 0x45, 0x4E, 0x44⟩
def qRuSt : Quad := ⟨0x52, 0x75, 0x53, 0x74⟩
def qRust : Quad := ⟨0x52, 0x75, 0x73, 0x74⟩
def qText : Quad := ⟨0x74, 0x45, 0x58, 0x74⟩

/-- REC_IEND and the file signature (95_test_vectors). -/
def recIEND : List Byte := [0, 0, 0, 0, 0x49, 0x45, 0x4E, 0x44, 0xAE, 0x42, 0x60, 0x82]
def sig : List Byte := [0x89, 0x50, 0x4E, 0x47, 0x0D, 0x0A, 0x1A, 0x0A]

/-- The chunks of V30, V33a and V31. -/
def cIEND : Chunk := { typ := qIEND, data := [], len := 0, crc := 0xAE426082 }
def cText : Chunk := { typ := qText, data := [0x61], len := 1, crc := 0x75F38B29 }
def cRuSt : Chunk := { typ := qRuSt, data := [], len := 0, crc := 0xD484093C }

/-- A machine with `bytes` at IMEM address 0 and the slice (0, n). -/
def withInput (bytes : List Byte) (n : Nat) : State :=
  { State.reset with imem := Memory.ofBytes 4096 bytes, a1 := n }

/-- One command from a state, as far as it goes on. -/
def run (i : Instr) (s : State) : Option State := stateOf (exec i s)

/-! ### One step per command -/

-- R270's example: SYS.NOP clears the code and nothing else.
theorem test_sysNop :
    (run .sysNop { State.reset with code := .crcMismatch, eaddr := 20, res := 5 }).map
      (fun t => (t.code, t.eaddr, t.res)) = some (.ok, 20, 5) := by decide

-- V106.
theorem test_sysReset :
    (run .sysReset { State.reset with doc := some [cIEND], optr := 74, crcacc := 0x12345678, a0 := 3 }).map
      (fun t => (t.status, t.a0, t.optr, t.crcacc)) = some (0, 0, 0, 0xFFFFFFFF) := by decide

-- R137's example.
theorem test_crcInit :
    (run .crcInit { State.reset with crcacc := 5 }).map (·.crcacc) = some 0xFFFFFFFF := by decide

-- R138's example, and V21.
theorem test_crcByte : (run (.crcByte 0x52) State.reset).map (·.crcacc) = some 0xA89820AA := by decide
theorem test_crcByte_zero : (run (.crcByte 0) State.reset).map (·.crcacc) = some 0x2DFD1072 := by decide

-- R139's example (V11), and V28.
theorem test_crcBuf :
    (run .crcBuf (withInput [0x31, 0x32, 0x33, 0x34, 0x35, 0x36, 0x37, 0x38, 0x39] 9)).map (·.crcacc)
      = some 0x340BC6D9 := by decide +kernel
theorem test_crcBuf_past_end :
    (run .crcBuf { State.reset with a0 := 4092, a1 := 5, res := 7 }).map (fun t => (t.code, t.res, t.crcacc))
      = some (.badOperand, 0, 0xFFFFFFFF) := by decide

-- R140's example.
theorem test_crcFin : (run .crcFin { State.reset with crcacc := 0x340BC6D9 }).map (·.res) = some 0xCBF43926 := by decide

-- V25 and V26.
theorem test_crcCheck :
    (run .crcCheck { State.reset with crcacc := 0x340BC6D9, a0 := 0xCBF43926 }).map (fun t => (t.code, t.res))
      = some (.ok, 1) := by decide
theorem test_crcCheck_differs :
    (run .crcCheck { State.reset with crcacc := 0x340BC6D9, a0 := 0xCBF43927 }).map (fun t => (t.code, t.res))
      = some (.crcMismatch, 0) := by decide

-- R169's examples.
theorem test_tcSet4 : (run .tcSet4 { State.reset with a0 := 0x52755374 }).map (·.t) = some (some qRuSt) := by decide
theorem test_tcSet4_not_letter :
    (run .tcSet4 { State.reset with a0 := 0x52753174, t := some qIEND }).map (fun t => (t.code, t.t))
      = some (.invalidTypeCode, none) := by decide

-- R170's examples.
theorem test_tcSets : (run .tcSets (withInput qRuSt.bytes 4)).map (·.t) = some (some qRuSt) := by decide
theorem test_tcSets_short : (run .tcSets (withInput qRuSt.bytes 3)).map (·.code) = some .invalidTypeCode := by decide

-- V2, V50, V51, V52.
theorem test_tcBytes : (run .tcBytes { State.reset with t := some qRuSt }).map (·.res) = some 0x52755374 := by decide
theorem test_tcBytes_empty : (run .tcBytes State.reset).map (·.code) = some .noValue := by decide
theorem test_tcIsCrit : (run .tcIsCrit { State.reset with t := some qRuSt }).map (·.res) = some 1 := by decide
theorem test_tcIsCrit_text : (run .tcIsCrit { State.reset with t := some qText }).map (·.res) = some 0 := by decide
theorem test_tcIsPub : (run .tcIsPub { State.reset with t := some qRuSt }).map (·.res) = some 0 := by decide
theorem test_tcIsPub_iend : (run .tcIsPub { State.reset with t := some qIEND }).map (·.res) = some 1 := by decide
theorem test_tcIsRsv : (run .tcIsRsv { State.reset with t := some qRuSt }).map (·.res) = some 1 := by decide
theorem test_tcIsRsv_rust : (run .tcIsRsv { State.reset with t := some qRust }).map (·.res) = some 0 := by decide
theorem test_tcIsSafe : (run .tcIsSafe { State.reset with t := some qRuSt }).map (·.res) = some 1 := by decide
theorem test_tcIsSafe_iend : (run .tcIsSafe { State.reset with t := some qIEND }).map (·.res) = some 0 := by decide
theorem test_tcIsValid : (run .tcIsValid { State.reset with t := some qText }).map (·.res) = some 1 := by decide
theorem test_tcIsValid_rust : (run .tcIsValid { State.reset with t := some qRust }).map (·.res) = some 0 := by decide

-- V83.
theorem test_tcRender :
    (run .tcRender { State.reset with t := some qRuSt, optr := 4092 }).map
      (fun t => (t.omem.readBytes 4092 4, t.optr, t.res)) = some ([0x52, 0x75, 0x53, 0x74], 4096, 4) := by decide
theorem test_tcRender_full :
    (run .tcRender { State.reset with t := some qRuSt, optr := 4093 }).map (fun t => (t.code, t.optr, t.omem))
      = some (.storeFull, 4093, []) := by decide

-- V33a and V97.
theorem test_chNew :
    (run .chNew { withInput [0x61] 1 with t := some qText }).map (fun t => (t.ch, t.res))
      = some (some cText, 0x75F38B29) := by decide +kernel
theorem test_chNew_full :
    (run .chNew { withInput [] 42 with t := some qText, cfg := { Config.suggested with chDataMax := 16 } }).map
      (fun t => (t.code, t.ch)) = some (.storeFull, none) := by decide

-- R211's examples.
theorem test_chParse :
    (run .chParse (withInput recIEND 12)).map (fun t => (t.ch, t.res)) = some (some cIEND, 12) := by decide +kernel
theorem test_chParse_crc :
    (run .chParse { withInput (recIEND.set 11 0x83) 12 with ch := some cText }).map
      (fun t => (t.code, t.ch, t.res, t.eaddr)) = some (.crcMismatch, none, 0, 0) := by decide +kernel

-- R212's example, and V94's edge with REC_IEND.
theorem test_chEmit :
    (run .chEmit { State.reset with ch := some cIEND, optr := 8 }).map
      (fun t => (t.omem.readBytes 8 12, t.optr, t.res)) = some (recIEND, 20, 12) := by decide
theorem test_chEmit_full :
    (run .chEmit { State.reset with ch := some cIEND, optr := 4085 }).map (fun t => (t.code, t.optr))
      = some (.storeFull, 4085) := by decide

-- V33a's chunk read out (R213, R214, R216); R214's corner case; R215's example.
theorem test_chLen : (run .chLen { State.reset with ch := some cText }).map (·.res) = some 1 := by decide
theorem test_chData :
    (run .chData { State.reset with ch := some cText, optr := 34 }).map (fun t => (t.omem, t.optr, t.res))
      = some ([(34, 0x61)], 35, 1) := by decide
theorem test_chData_empty :
    (run .chData { State.reset with ch := some cIEND, optr := 4096 }).map (fun t => (t.code, t.optr, t.res))
      = some (.ok, 4096, 0) := by decide
theorem test_chType :
    (run .chType { State.reset with ch := some cIEND, res := 12 }).map (fun t => (t.t, t.res))
      = some (some qIEND, 12) := by decide
theorem test_chCrc : (run .chCrc { State.reset with ch := some cIEND }).map (·.res) = some 0xAE426082 := by decide

-- V61 and V64.
theorem test_docParse :
    (run .docParse (withInput (sig ++ recIEND) 20)).map (fun t => (t.doc, t.res)) = some (some [cIEND], 1) := by decide +kernel
theorem test_docParse_truncated :
    (run .docParse { withInput (sig ++ recIEND) 19 with doc := some [cText] }).map
      (fun t => (t.code, t.doc, t.eaddr)) = some (.truncatedChunk, none, 8) := by decide

-- R246's, R247's and V68's, V68b's readings on a document of two chunks.
theorem test_docCount : (run .docCount { State.reset with doc := some [cIEND, cText] }).map (·.res) = some 2 := by decide
theorem test_docGet :
    (run .docGet { State.reset with doc := some [cIEND, cText], a0 := 1 }).map (fun t => (t.ch, t.res))
      = some (some cText, 1) := by decide
theorem test_docGet_range :
    (run .docGet { State.reset with doc := some [cIEND, cText], a0 := 2, ch := some cRuSt }).map
      (fun t => (t.code, t.ch)) = some (.badOperand, some cRuSt) := by decide

-- V66, V66b.
theorem test_docFind :
    (run .docFind { State.reset with doc := some [cIEND, cText], a0 := 0x74455874 }).map (fun t => (t.ch, t.res))
      = some (some cText, 1) := by decide
theorem test_docFind_absent :
    (run .docFind { State.reset with doc := some [cIEND, cText], a0 := 0x72757374, ch := some cText }).map
      (fun t => (t.code, t.ch, t.res)) = some (.ok, none, 2) := by decide

-- R249's example, V69b.
theorem test_docAppend :
    (run .docAppend { State.reset with doc := some [cIEND], ch := some cText }).map
      (fun t => (t.doc, t.ch, t.res)) = some (some [cIEND, cText], none, 2) := by decide
theorem test_docAppend_full :
    (run .docAppend { State.reset with
      doc := some [cIEND], ch := some cText, cfg := { Config.suggested with docChunksMax := some 1 } }).map
      (fun t => (t.code, t.doc, t.ch)) = some (.storeFull, some [cIEND], some cText) := by decide

-- V67a, V67.
theorem test_docRemove :
    (run .docRemove { State.reset with doc := some [cIEND, cText], a0 := 0x49454E44 }).map
      (fun t => (t.doc, t.ch, t.res)) = some (some [cText], some cIEND, 0) := by decide
theorem test_docRemove_absent :
    (run .docRemove { State.reset with doc := some [cIEND], a0 := 0x74455874, ch := some cText }).map
      (fun t => (t.code, t.doc, t.ch, t.res)) = some (.chunkNotFound, some [cIEND], none, 0) := by decide

-- R251's example.
theorem test_docEmit :
    (run .docEmit { State.reset with doc := some [cIEND] }).map (fun t => (t.omem.readBytes 0 20, t.res))
      = some (sig ++ recIEND, 20) := by decide

/-! ### Functions the spec gives values of -/

-- V10, V17, and the source's known vector V1 (R144).
theorem test_crc32_empty : crc32 [] = 0 := by decide
theorem test_crc32_iend : crc32 qIEND.bytes = 0xAE426082 := by decide +kernel
theorem test_crc32_known :
    crc32 (qRuSt.bytes ++
      [0x54, 0x68, 0x69, 0x73, 0x20, 0x69, 0x73, 0x20, 0x77, 0x68, 0x65, 0x72, 0x65, 0x20, 0x79, 0x6F, 0x75, 0x72]
      ++ [0x20, 0x73, 0x65, 0x63, 0x72, 0x65, 0x74, 0x20, 0x6D, 0x65, 0x73, 0x73, 0x61, 0x67, 0x65, 0x20, 0x77, 0x69]
      ++ [0x6C, 0x6C, 0x20, 0x62, 0x65, 0x21]) = 2882656334 := by decide +kernel

-- V37, V39b, V39c, V39e: the deciding step of R196.
theorem test_parse_crc_overrun :
    parseRecord [0, 0, 0, 4, 0x52, 0x75, 0x53, 0x74, 0x41, 0x42, 0x43, 0x44] = .error .truncatedChunk := by rfl
theorem test_parse_len_at_ceiling :
    parseRecord [0x80, 0, 0, 0, 0x52, 0x75, 0x53, 0x74, 0, 0, 0, 0] = .error .truncatedChunk := by rfl
theorem test_parse_len_above_ceiling :
    parseRecord [0x80, 0, 0, 1, 0x31, 0x31, 0x31, 0x31, 0, 0, 0, 0] = .error .oversizedChunk := by rfl
theorem test_parse_letters_before_data :
    parseRecord [0x80, 0, 0, 0, 0x31, 0x31, 0x31, 0x31, 0, 0, 0, 0] = .error .invalidTypeCode := by rfl

/-! ### Host operations -/

-- V109.
theorem test_status :
    ({ State.reset with t := some qIEND, ch := some cIEND } : State).status = 0x300 := by decide

-- V107: a write of a read-only register is ignored.
theorem test_wr_readonly :
    stateOf (step { State.reset with pending := [.wr 7 0] }) = some State.reset := by decide

-- V101 through a step.
theorem test_step_bad_command :
    (stateOf (step (State.reset.withFetchWord 32 1))).map (fun t => (t.code, t.res, t.pending))
      = some (.badCommand, 0, []) := by decide

-- The first instruction after reset: P1's second line.
theorem test_step_first_command :
    (stateOf (step (State.reset.withFetchWord 32 0x11000052))).map (·.crcacc) = some 0xA89820AA := by decide

theorem test_step_idle : stateOf (step State.reset) = none := by decide

/-! ### Witnesses: for every statement with hypotheses, states and operands that meet them, each clause at a boundary.
`run i s` is `some t` exactly when `exec i s` answers the next state `t`. -/

/-- The host is about to do `op`. -/
def issuing (op : HostOp) : State := { State.reset with pending := [op] }

/-- T, CH and DOC all loaded with valid values. -/
def loaded : State := { State.reset with t := some qRuSt, ch := some cText, doc := some [cIEND, cText] }

theorem cIEND_valid : cIEND.Valid := ⟨by decide, by decide, by decide +kernel⟩
theorem cText_valid : cText.Valid := ⟨by decide, by decide, by decide +kernel⟩

/-- A build with more IMEM than a 32-bit length counts, and one that holds chunks of 16 bytes at most. -/
def wideBuild : Config := { Config.suggested with imemSize := 2 ^ 33 }
def smallBuild : Config := { Config.suggested with chDataMax := 16 }

/-- A constructed chunk is valid (R193), with the declared length its data has. -/
theorem chunkNew_valid {q : Quad} {d : List Byte} (hq : isTypeCode q = true) (hd : d.length < 2 ^ 32) :
    (chunkNew q d).Valid ∧ (chunkNew q d).len.toNat = d.length := by
  have hl : (BitVec.ofNat 32 d.length).toNat = d.length := by rw [BitVec.toNat_ofNat, Nat.mod_eq_of_lt hd]
  exact ⟨⟨hq, hl, rfl⟩, hl⟩

/-- There is a valid chunk one byte above the length ceiling. -/
theorem huge_chunk : ∃ c : Chunk, c.Valid ∧ 2 ^ 31 < c.len.toNat := by
  obtain ⟨d, hd⟩ : ∃ d : List Byte, d.length = 2 ^ 31 + 1 := ⟨List.replicate (2 ^ 31 + 1) 0, List.length_replicate⟩
  obtain ⟨hv, hl⟩ := chunkNew_valid (q := qText) (d := d) (by decide) (by omega)
  exact ⟨chunkNew qText d, hv, by omega⟩

theorem loaded_holding : loaded.HoldingInv where
  t_letters q h := by cases h; decide
  ch_valid c h := by cases h; exact cText_valid
  ch_fits c h := by cases h; decide
  doc_valid cs h c hc := by
    cases h
    rcases List.mem_pair.mp hc with rfl | rfl
    exacts [cIEND_valid, cText_valid]
  doc_fits cs h c hc := by
    cases h
    rcases List.mem_pair.mp hc with rfl | rfl <;> decide
  doc_count cs h := by cases h; rfl
  doc_total cs h := by cases h; rfl

theorem loaded_inv : loaded.Inv where
  cfg_wf := by decide
  a0_fits := by unfold fitsAw; decide
  a1_fits := by unfold fitsAw; decide
  res_fits := by unfold fitsAw; decide
  eaddr_fits := by unfold fitsAw; decide
  optr_fits := by unfold fitsAw; decide
  code_produced := by decide
  holding := loaded_holding
  imem_wf := by decide
  imem_within := by decide
  omem_wf := by decide
  omem_within := by decide

-- IllegalWordsCompleteBadCommand, the four ways to be illegal.
theorem witness_illegal_words :
    (issuing (.wr 0 (2 ^ 32))).pending = [.wr 0 (2 ^ 32)] ∧ 2 ^ 32 < 2 ^ State.reset.cfg.aw ∧
      decode (2 ^ 32) = .error .bitsAbove31 ∧ decode 0x02000000 = .error .unknownOpcode ∧
      decode 0x11000100 = .error .reservedBits ∧ decode 0x46000001 = .error .strayImmediate := by
  refine ⟨rfl, by decide, rfl, rfl, rfl, rfl⟩

-- StepRunsTheDecodedCommand.
theorem witness_issue :
    (issuing (.wr 0 0x110000FF)).pending = [.wr 0 0x110000FF] ∧ 0x110000FF < 2 ^ State.reset.cfg.aw ∧
      decode 0x110000FF = .ok (.crcByte 0xFF) ∧ decode 0x47000000 = .error .unknownOpcode := by
  refine ⟨rfl, by decide, rfl, rfl⟩

-- HostRegisterWrites: the largest AW-bit value.
theorem witness_register_writes :
    (∀ n ∈ [0, 1, 2, 3, 4, 5, 6, 7],
      (issuing (.wr n (2 ^ 64 - 1))).pending = [.wr n (2 ^ 64 - 1)] ∧ 2 ^ 64 - 1 < 2 ^ State.reset.cfg.aw) ∧
      decode (2 ^ 64 - 1) = .error .bitsAbove31 ∧ decode 0x46000000 = .ok .docEmit := by
  refine ⟨by decide, rfl, rfl⟩

-- HostRegisterReads: the first and the last register.
theorem witness_register_reads :
    (issuing (.rd 0)).pending = [.rd 0] ∧ 0 < 8 ∧ (issuing (.rd 7)).pending = [.rd 7] ∧ 7 < 8 := by decide

-- StatusWordFields: a state with the first code of R110 and one with the last.
theorem witness_status_codes :
    State.reset.code = .ok ∧ bitField State.reset.status 7 0 = 0 ∧
      ({ State.reset with code := .storeFull } : State).code = .storeFull := by decide

-- HostMemoryAccess: the last byte, and one past it.
theorem witness_memory_access :
    State.reset.imem.wf = true ∧ 4095 + [(0 : Byte)].length ≤ State.reset.cfg.imemSize ∧
      State.reset.cfg.imemSize < 4096 + [(0 : Byte)].length ∧ 4090 + 6 ≤ State.reset.cfg.imemSize ∧
      State.reset.cfg.imemSize < 4090 + 7 ∧ 0 ≤ 4096 ∧ 4096 ≤ State.reset.cfg.omemSize ∧
      State.reset.cfg.omemSize < 4097 ∧ (stateOf (step (issuing (.rd 7)))).map (·.omem) = some [] := by decide

-- OperationsWithNoMeaningAreRefused.
theorem witness_no_meaning :
    (issuing (.rd 8)).pending = [.rd 8] ∧ (issuing (.wr 8 0)).pending = [.wr 8 0] ∧ 0 < 2 ^ State.reset.cfg.aw ∧
      2 ^ State.reset.cfg.aw ≤ 2 ^ 64 ∧ State.reset.pending = [] := by decide

-- HardwareResetFromAnyState.
theorem witness_hardReset :
    (issuing (.hardReset [1] [2])).pending = [.hardReset [1] [2]] ∧ 0 < State.reset.cfg.imemSize ∧
      [(1 : Byte)][0]? = some 1 ∧ 0 < State.reset.cfg.omemSize ∧ [(2 : Byte)][0]? = some 2 := by decide

-- SystemCommands, its clause about DOC: both ways.
theorem witness_doc_emptied :
    loaded.doc ≠ none ∧ (run .sysReset loaded).map (·.doc) = some none ∧
      (run .docParse loaded).map (fun t => (t.doc, t.code)) = some (none, .badSignature) := by decide

-- CrcCommands: the slice at and past the end, the operand at and past 32 bits.
theorem witness_crc :
    0 + 4096 ≤ State.reset.cfg.imemSize ∧ State.reset.cfg.imemSize < 1 + 4096 ∧ 2 ^ 32 ≤ 2 ^ 32 ∧
      2 ^ 32 - 1 < 2 ^ 32 ∧ ((0 : Word) ^^^ 0xFFFFFFFF).toNat = 2 ^ 32 - 1 ∧
      ((1 : Word) ^^^ 0xFFFFFFFF).toNat ≠ 2 ^ 32 - 1 := by decide

-- ChecksumLaws and TableFormEqualsBitSerialForm.
theorem witness_checksum_laws : (0x00 : Byte) ≠ 0x01 ∧ 255 < 256 := by decide

-- ChecksumPseudoInstruction: the whole of IMEM.
theorem witness_pseudo :
    State.reset.cfg.wf = true ∧ 0 + 4096 ≤ State.reset.cfg.imemSize ∧
      ({ State.reset with pending := Pseudo.checksum 0 4096 } : State).pending = Pseudo.checksum 0 4096 := by
  refine ⟨by decide, by decide, rfl⟩

-- OnlyCrcCommandsUseCrcacc.
theorem witness_crcacc :
    (run .tcBytes loaded).map (·.code) = some .ok ∧ Instr.tcBytes ≠ .crcInit ∧ (∀ b, Instr.tcBytes ≠ .crcByte b) ∧
      Instr.tcBytes ≠ .crcBuf ∧ Instr.tcBytes ≠ .crcFin ∧ Instr.tcBytes ≠ .crcCheck ∧ Instr.tcBytes ≠ .sysReset := by
  refine ⟨by decide, ?_⟩
  simp

-- LettersAndTheirCaseBit: both ends of both ranges and their neighbours.
theorem witness_letters :
    [0x41, 0x5A, 0x61, 0x7A].all (fun b => isLetter b) = true ∧
      [0x40, 0x5B, 0x60, 0x7B].any (fun b => isLetter b) = false ∧ isTypeCode qRuSt = true := by decide

-- TypeCodeConstructors and StringAndPackedConstructorsAgree: "RuSt", and "Ru1t" with a digit (R169's examples).
theorem witness_tc_constructors :
    2 ^ 32 ≤ 2 ^ 32 ∧ (fromBe32 qRuSt).toNat = 0x52755374 ∧ isTypeCode qRuSt = true ∧
      (fromBe32 ⟨0x52, 0x75, 0x31, 0x74⟩).toNat = 0x52753174 ∧ isTypeCode ⟨0x52, 0x75, 0x31, 0x74⟩ = false ∧
      State.reset.cfg.imemSize < 4093 + 4 ∧ 4092 + 4 ≤ State.reset.cfg.imemSize ∧ 3 ≠ 4 ∧ 5 ≠ 4 ∧
      (withInput qRuSt.bytes 4).imem.readBytes 0 4 = qRuSt.bytes ∧
      (∀ j ∈ [0, 1, 2, 3], qRuSt.bytes[j]? = some ((withInput qRuSt.bytes 4).imem.readByte (0 + j))) := by decide

-- TypeCodeReads, ChunkReads, DocumentReads, EmptyRegisterRefusesItsConsumers, EmptyMachineAcceptsOnlyTheseCommands:
-- the registers empty and full; a chunk index in range, and equal to the count.
theorem witness_registers :
    State.reset.t = none ∧ State.reset.ch = none ∧ State.reset.doc = none ∧ loaded.t = some qRuSt ∧
      loaded.ch = some cText ∧ loaded.doc = some [cIEND, cText] ∧ [cIEND, cText][1]? = some cText ∧
      [cIEND, cText].length ≤ 2 ∧ [cIEND, cText].length < 2 ^ State.reset.cfg.aw ∧
      (run .docEmit State.reset).map (·.code) = some .noValue := by decide

-- OutputCommandsStoreTheirBytes: the four commands; bytes that just fit and that miss by one, and no byte at all.
theorem witness_output :
    outputOf .tcRender loaded = some qRuSt.bytes ∧ loaded.omem.wf = true ∧
      4092 + qRuSt.bytes.length ≤ loaded.cfg.omemSize ∧ loaded.cfg.omemSize < 4093 + qRuSt.bytes.length ∧
      (outputOf .chEmit loaded).map List.length = some 13 ∧ outputOf .chData loaded = some [0x61] ∧
      outputOf .chData { loaded with ch := some cIEND } = some [] ∧ 4096 + 0 ≤ loaded.cfg.omemSize ∧
      (outputOf .docEmit loaded).map List.length = some 33 := by decide

-- OutputBytesAndCounts, HoldingRegisterInvariants, EveryStepKeepsTheMachineInvariant: a state with everything loaded.
theorem witness_invariants :
    loaded.HoldingInv ∧ loaded.Inv ∧ Reachable (State.reset.setPending [.rd 0]) ∧
      (stateOf (step { loaded with pending := [.wr 0 0x44000000] })).map (·.code) = some .ok :=
  ⟨loaded_holding, loaded_inv,
    .launch Config.suggested [] [] [.rd 0] (by decide) (by decide) (by decide) (by decide) (by decide), by decide⟩

theorem loaded_pending_inv : ({ loaded with pending := [.wr 0 0x44000000] } : State).Inv :=
  { loaded_inv with holding := { loaded_holding with } }

-- InvariantHoldsAfterReset and MemoriesAreTheirReads.
theorem witness_memories :
    Config.suggested.wf = true ∧ Memory.wf [(0, 1), (4095, 2)] = true ∧
      Memory.within [(0, 1), (4095, 2)] Config.suggested.imemSize = true ∧
      (∀ a : Nat, Memory.readByte [(3, 1)] a = Memory.readByte [(3, 1)] a) := ⟨by decide, by decide, by decide, fun _ => rfl⟩

-- OnlyOutputCommandsWriteMemory and FailingCommandChangesOnlyItsResult: a refusal and a source-defined failure.
theorem witness_failures :
    (run .tcBytes State.reset).map (·.code) = some .noValue ∧
      (run .docParse loaded).map (·.code) = some .badSignature ∧
      (run .chParse loaded).map (fun t => (t.code, t.eaddr)) = some (.truncatedChunk, 0) ∧
      decode 1 = .error .strayImmediate := by
  refine ⟨by decide, by decide, by decide, rfl⟩

-- EngineReadsOnlyItsSlice: a memory that differs just past the slice.
theorem witness_slice :
    (run .crcBuf (withInput qRuSt.bytes 4)).map (·.code) = some .ok ∧
      (∀ j ∈ [0, 1, 2, 3], Memory.readByte (Memory.ofBytes 4096 (qRuSt.bytes ++ [0xFF])) (0 + j)
        = (withInput qRuSt.bytes 4).imem.readByte (0 + j)) ∧
      Memory.ofBytes 4096 (qRuSt.bytes ++ [0xFF]) ≠ (withInput qRuSt.bytes 4).imem := by decide

-- ChNewBuildsTheChunk: past IMEM, past 32 bits (a build with more IMEM), at and past CH_DATA_MAX.
theorem witness_chNew :
    Config.suggested.imemSize < 0 + 4097 ∧ wideBuild.wf = true ∧ 0 + 2 ^ 32 ≤ wideBuild.imemSize ∧
      2 ^ 32 - 1 < 2 ^ 32 ∧ smallBuild.wf = true ∧ 0 + 17 ≤ smallBuild.imemSize ∧ 17 ≤ 2 ^ 32 - 1 ∧
      smallBuild.chDataMax < 17 ∧ 16 ≤ smallBuild.chDataMax := by decide

-- ChParseLoadsOrEmptiesCh, ParseIgnoresFollowingBytes: records that parse (data of one byte against CH_DATA_MAX 0 and 1)
-- and one that does not. REC_IEND's bytes, and V33a's.
theorem witness_chParse :
    parseRecord ((withInput recIEND 12).imem.readBytes 0 12) = .ok (cIEND, 12) ∧
      parseRecord [0, 0, 0, 1, 0x74, 0x45, 0x58, 0x74, 0x61, 0x75, 0xF3, 0x8B, 0x29] = .ok (cText, 13) ∧
      0 < cText.len.toNat ∧ cText.len.toNat ≤ 1 ∧
      parseRecord ((withInput recIEND 11).imem.readBytes 0 11) = .error .truncatedChunk := by
  refine ⟨?_, ?_, by decide, by decide, by rfl⟩ <;> decide +kernel

-- ParseStepOrder: each row at its boundary.
theorem witness_parse_rows :
    (recIEND.take 11).length < 12 ∧
      (fromBe32 (quadAt [0x80, 0, 0, 1, 0x31, 0x31, 0x31, 0x31, 0, 0, 0, 0] 0)).toNat = 2 ^ 31 + 1 ∧
      (fromBe32 (quadAt [0x80, 0, 0, 0, 0x31, 0x31, 0x31, 0x31, 0, 0, 0, 0] 0)).toNat = 2 ^ 31 ∧
      isTypeCode (quadAt [0x80, 0, 0, 0, 0x31, 0x31, 0x31, 0x31, 0, 0, 0, 0] 4) = false ∧
      (fromBe32 (quadAt [0, 0, 0, 1, 0x74, 0x45, 0x58, 0x74, 0, 0, 0, 0] 0)).toNat = 1 ∧
      isTypeCode (quadAt [0, 0, 0, 1, 0x74, 0x45, 0x58, 0x74, 0, 0, 0, 0] 4) = true ∧ 12 < 12 + 1 := by decide
theorem witness_parse_crc_rows :
    crc32 (qIEND.bytes ++ ((recIEND.set 11 0x83).drop 8).take 0) ≠ fromBe32 (quadAt (recIEND.set 11 0x83) (8 + 0)) ∧
      crc32 (qIEND.bytes ++ (recIEND.drop 8).take 0) = fromBe32 (quadAt recIEND (8 + 0)) ∧
      quadAt recIEND 4 = qIEND ∧ (fromBe32 (quadAt recIEND 0)).toNat = 0 := by
  refine ⟨?_, ?_, by decide, by decide⟩ <;> decide +kernel

-- RecordRoundTrip: a chunk within the ceiling, and one above it.
theorem witness_round_trip :
    cText.Valid ∧ cText.len.toNat ≤ 2 ^ 31 ∧ (∃ c : Chunk, c.Valid ∧ 2 ^ 31 < c.len.toNat) ∧
      isTypeCode qText = true ∧ [(0x61 : Byte)].length ≤ 2 ^ 31 :=
  ⟨cText_valid, by decide, huge_chunk, by decide, by decide⟩

-- OneBitFlipByField: the first byte of the data, the crc and the type field and the last of the length field of cText;
-- a flip that leaves a letter, and one that does not.
theorem witness_flips :
    cText.Valid ∧ cText.len.toNat ≤ 2 ^ 31 ∧ (chunkBytes cText)[8]? = some 0x61 ∧ (chunkBytes cText)[9]? = some 0x75 ∧
      (chunkBytes cText)[4]? = some 0x74 ∧ isLetter (0x74 ^^^ (1#8 <<< 5)) = true ∧
      isLetter (0x74 ^^^ (1#8 <<< 6)) = false ∧ (chunkBytes cText)[3]? = some 1 := by
  refine ⟨cText_valid, ?_⟩
  decide

-- DocumentRoundTrip and FirstBadRecordDecides.
theorem witness_doc_parse :
    docParse (sig ++ recIEND) = .ok [cIEND] ∧ (∀ c ∈ [cIEND], c.Valid ∧ c.len.toNat ≤ 2 ^ 31) ∧
      (sig.take 7).take 8 ≠ [0x89, 0x50, 0x4E, 0x47, 0x0D, 0x0A, 0x1A, 0x0A] ∧ [(0 : Byte)] ≠ [] ∧
      parseRecord [0] = .error .truncatedChunk ∧ docParse (sig ++ [0]) = .error (.truncatedChunk, 8) ∧
      docParse [] = .error (.badSignature, 0) := by
  refine ⟨by decide +kernel, ?_, by decide, by decide, by rfl, by rfl, by rfl⟩
  intro c hc
  rw [List.mem_singleton.mp hc]
  exact ⟨cIEND_valid, by decide⟩

-- FindFirstIsTheSmallestIndex, AppendThenRemove, DocumentStoreOperations: a key that is there, one that is not, one that
-- is no type code, and one past 32 bits.
theorem witness_lookup :
    findFirst [cIEND, cText] qText = some (1, cText) ∧ findFirst [cIEND, cText] qRuSt = none ∧
      isTypeCode ⟨0, 0, 0, 0⟩ = false ∧ (∀ c ∈ [cIEND], c.typ ≠ cText.typ) ∧
      removeFirst [cIEND, cText] qText = some (1, cText, [cIEND]) ∧ (fromBe32 qText).toNat = 0x74455874 ∧
      2 ^ 32 ≤ 2 ^ 32 := by decide

-- AppendThenRemove, DocumentStoreOperations, DocParseLoadsOrEmptiesDoc: the capacities at and past their limits (cIEND in
-- DOC, cText with one byte of data appended or parsed).
theorem witness_capacities :
    exceeds ([cIEND].length + 1) (some 2) = false ∧ exceeds ([cIEND].length + 1) (some 1) = true ∧
      exceeds (dataTotal [cIEND] + cText.len.toNat) (some 1) = false ∧
      exceeds (dataTotal [cIEND] + cText.len.toNat) (some 0) = true ∧ 0 < cText.len.toNat ∧ cText.len.toNat ≤ 1 ∧
      docParse ((withInput (sig ++ recIEND) 20).imem.readBytes 0 20) = .ok [cIEND] := by
  refine ⟨by decide, by decide, by decide, by decide, by decide, by decide, ?_⟩
  decide +kernel

-- EaddrHoldsTheFailingRecord, FailedConstructorBlocksItsConsumers: the failures of each constructor.
theorem witness_constructor_failures :
    (run .tcSets loaded).map (fun t => (t.code, t.t)) = some (.invalidTypeCode, none) ∧
      (run .docRemove loaded).map (fun t => (t.code, t.ch)) = some (.chunkNotFound, none) ∧
      (run .chParse loaded).map (fun t => (t.code, t.ch, t.eaddr)) = some (.truncatedChunk, none, 0) ∧
      (run .docParse (withInput (sig ++ [0]) 9)).map (fun t => (t.code, t.eaddr)) = some (.truncatedChunk, 8) ∧
      (run .docParse { withInput sig 7 with a0 := 1 }).map (fun t => (t.code, t.eaddr)) = some (.badSignature, 1) := by
  decide

-- ValidBitsSetAndCleared: each event that sets or clears a bit.
theorem witness_valid_bits :
    (run .chType loaded).map (fun t => (t.code, t.tv)) = some (.ok, true) ∧
      (run .docGet loaded).map (fun t => (t.code, t.cv)) = some (.ok, true) ∧
      (run .docAppend loaded).map (fun t => (t.code, t.cv)) = some (.ok, false) ∧
      (run .docFind { loaded with a0 := 0x74455874 }).map (fun t => (t.code, t.cv)) = some (.ok, true) ∧
      (run .docFind loaded).map (fun t => (t.code, t.cv)) = some (.ok, false) ∧
      (run .docParse (withInput sig 8)).map (fun t => (t.code, t.dv)) = some (.ok, true) ∧
      (run .sysReset loaded).map (fun t => (t.tv, t.cv, t.dv)) = some (false, false, false) := by decide

-- CapacityOnlyTurnsSuccessIntoRefusal: an append that is refused in the small build and completes in the large one.
theorem witness_capacity_only :
    (run .docAppend { loaded with cfg := { Config.suggested with docChunksMax := some 2 } }).map (·.code)
        = some .storeFull ∧ outputOf .docAppend loaded = none ∧
      (run .docAppend { loaded with cfg := { Config.suggested with docChunksMax := none } }).map (·.code) = some .ok := by
  decide

end Sys2Proof.Tests
end

section
/-! PROOFS (statements of 00_scope). What a holding register may hold, as a property of the value and the build, and
that the framer and the sequencer give only such values (spec 10_state R30 to R32). -/

namespace Sys2Proof.Machine

/-- A chunk that CH or DOC may hold in a build (R31). -/
structure Chunk.Held (cfg : Config) (c : Chunk) : Prop where
  valid : c.Valid
  fits : c.len.toNat ≤ cfg.chDataMax

/-- A chunk sequence that DOC may hold in a build (R32). -/
structure DocHeld (cfg : Config) (cs : List Chunk) : Prop where
  chunks : ∀ c ∈ cs, c.Held cfg
  count : exceeds cs.length cfg.docChunksMax = false
  total : exceeds (dataTotal cs) cfg.docDataMax = false

section
variable {s : State} {c : Chunk} {cs : List Chunk}

theorem State.HoldingInv.ch_held (h : s.HoldingInv) (hc : s.ch = some c) : c.Held s.cfg :=
  ⟨h.ch_valid c hc, h.ch_fits c hc⟩

theorem State.HoldingInv.doc_held (h : s.HoldingInv) (hd : s.doc = some cs) : DocHeld s.cfg cs where
  chunks c hc := ⟨h.doc_valid cs hd c hc, h.doc_fits cs hd c hc⟩
  count := h.doc_count cs hd
  total := h.doc_total cs hd

end

/-- The holding registers' invariants, one condition per register. -/
theorem State.HoldingInv.of_held {s : State} (ht : ∀ q, s.t = some q → isTypeCode q = true)
    (hc : ∀ c, s.ch = some c → c.Held s.cfg) (hd : ∀ cs, s.doc = some cs → DocHeld s.cfg cs) : s.HoldingInv where
  t_letters := ht
  ch_valid c h := (hc c h).valid
  ch_fits c h := (hc c h).fits
  doc_valid cs h c hm := ((hd cs h).chunks c hm).valid
  doc_fits cs h c hm := ((hd cs h).chunks c hm).fits
  doc_count cs h := (hd cs h).count
  doc_total cs h := (hd cs h).total

/-! ### Constructed and parsed chunks -/

/-- CH.NEW's chunk may be held where its type is a type code and its data passes the two length checks (R193, R210). -/
theorem chunkNew_held {cfg : Config} {q : Quad} {d : List Byte} (hq : isTypeCode q = true)
    (h32 : d.length ≤ 2 ^ 32 - 1) (hmax : d.length ≤ cfg.chDataMax) : (chunkNew q d).Held cfg := by
  have hlen : (chunkNew q d).len.toNat = d.length := by
    simp only [chunkNew, BitVec.toNat_ofNat]
    omega
  exact ⟨⟨hq, hlen, rfl⟩, hlen.trans_le hmax⟩

/-- A parsed chunk is valid (R196, R191). -/
theorem parseRecord_valid {s : List Byte} {c : Chunk} {k : Nat} (h : parseRecord s = .ok (c, k)) : c.Valid := by
  obtain ⟨-, hletters, -, -, htyp, -, -, hcrc, -⟩ := parseRecord_ok h
  exact ⟨htyp ▸ hletters, parseRecord_data_length h, hcrc⟩

theorem parseRecord_error_ne_notUtf8 {s : List Byte} {e : Code} (h : parseRecord s = .error e) : e ≠ .notUtf8 := by
  rcases parseRecord_error h with rfl | rfl | rfl | rfl <;> decide

/-- Every chunk of a successful `doc_parse` loop is valid. -/
theorem docRecords_valid {f pos : Nat} {s : List Byte} {cs : List Chunk} (h : docRecords f pos s = .ok cs) :
    ∀ c ∈ cs, c.Valid := by
  induction f generalizing pos s cs with
  | zero =>
    cases s with
    | nil => cases h; simp
    | cons b rest => cases h
  | succ f ih =>
    cases s with
    | nil => cases h; simp
    | cons b rest =>
      rw [docRecords_turn (by simp)] at h
      cases hp : parseRecord (b :: rest) with
      | error e => simp [hp] at h
      | ok r =>
        obtain ⟨c, k⟩ := r
        simp only [hp] at h
        cases hr : docRecords f (pos + k) ((b :: rest).drop k) with
        | error e => simp [hr] at h
        | ok ds =>
          simp only [hr, Except.ok.injEq] at h
          subst h
          exact List.forall_mem_cons.mpr ⟨parseRecord_valid hp, ih hr⟩

/-- A successful `doc_parse` is a successful loop over what follows the signature (R233). -/
theorem docParse_ok {s : List Byte} {cs : List Chunk} (h : docParse s = .ok cs) :
    s.take 8 = signature ∧ docRecords s.length 8 (s.drop 8) = .ok cs := by
  simp only [docParse] at h
  split_ifs at h with hs
  exact ⟨hs, h⟩

/-- What DOC.PARSE loads may be held where no capacity is passed (R245). -/
theorem docParse_held {cfg : Config} {s : List Byte} {cs : List Chunk} (h : docParse s = .ok cs)
    (hcap : passesCapacity cfg cs = false) : DocHeld cfg cs := by
  obtain ⟨hcount, htotal, hfits⟩ := passesCapacity_eq_false.mp hcap
  exact ⟨fun c hc => ⟨docRecords_valid (docParse_ok h).2 c hc, hfits c hc⟩, hcount, htotal⟩

theorem docParse_length_le {s : List Byte} {cs : List Chunk} (h : docParse s = .ok cs) : cs.length ≤ s.length := by
  have hcount := docRecords_count (docParse_ok h).2
  rw [List.length_drop] at hcount
  omega

/-- A failing `doc_parse` gives a produced code and an offset inside the buffer, or 0. -/
theorem docParse_error_bounds {s : List Byte} {e : Code} {off : Nat} (h : docParse s = .error (e, off)) :
    e ≠ .notUtf8 ∧ off ≤ s.length := by
  rcases docParse_error h with ⟨rfl, rfl⟩ | ⟨rfl | rfl | rfl | rfl, -, hoff⟩
  · exact ⟨by decide, Nat.zero_le _⟩
  all_goals exact ⟨by decide, hoff.le⟩

/-! ### Chunk sequences that grow and shrink -/

theorem exceeds_eq_false_of_le {n m : Nat} {cap : Option Nat} (h : n ≤ m) (hm : exceeds m cap = false) :
    exceeds n cap = false := by
  cases cap with
  | none => rfl
  | some max =>
    simp only [exceeds_some, decide_eq_false_iff_not] at hm ⊢
    omega

theorem withoutIndex_sublist (cs : List Chunk) (i : Nat) : (withoutIndex cs i).Sublist cs := by
  rw [withoutIndex, ← List.eraseIdx_eq_take_drop_succ]
  exact List.eraseIdx_sublist cs i

theorem dataTotal_le_of_sublist {cs ds : List Chunk} (h : cs.Sublist ds) : dataTotal cs ≤ dataTotal ds := by
  induction h with
  | slnil => exact le_rfl
  | cons c _ ih => exact ih.trans (Nat.le_add_left _ _)
  | cons_cons c _ ih => exact Nat.add_le_add_left ih _

/-- DOC.APPEND within the two capacities (R249). -/
theorem DocHeld.append {cfg : Config} {cs : List Chunk} {c : Chunk} (h : DocHeld cfg cs) (hc : c.Held cfg)
    (hcount : exceeds (cs.length + 1) cfg.docChunksMax = false)
    (htotal : exceeds (dataTotal cs + c.len.toNat) cfg.docDataMax = false) : DocHeld cfg (cs ++ [c]) where
  chunks d hd := by
    rcases List.mem_append.mp hd with hd | hd
    · exact h.chunks d hd
    · exact List.mem_singleton.mp hd ▸ hc
  count := by simpa using hcount
  total := by simpa [dataTotal_append, dataTotal] using htotal

/-- DOC.REMOVE passes no capacity (R250). -/
theorem DocHeld.withoutIndex {cfg : Config} {cs : List Chunk} (h : DocHeld cfg cs) (i : Nat) :
    DocHeld cfg (Machine.withoutIndex cs i) where
  chunks c hc := h.chunks c (mem_withoutIndex hc)
  count := exceeds_eq_false_of_le (withoutIndex_sublist cs i).length_le h.count
  total := exceeds_eq_false_of_le (dataTotal_le_of_sublist (withoutIndex_sublist cs i)) h.total

end Sys2Proof.Machine
end

section
/-! PROOFS (statements of 00_scope). Properties of the state that survive every write the machine makes under the
condition it makes it (`Stable`): the holding registers' invariants and the machine invariant are two of them. -/

namespace Sys2Proof.Machine

/-! ### What fits a register of a build R5 allows -/

theorem bounds_of_wf {cfg : Config} (h : cfg.wf = true) :
    33 ≤ cfg.aw ∧ cfg.imemSize < 2 ^ cfg.aw ∧ cfg.omemSize < 2 ^ cfg.aw := by
  simp only [Config.wf, Bool.and_eq_true, decide_eq_true_eq] at h
  omega

theorem fitsAw_zero (cfg : Config) : fitsAw cfg 0 := Nat.two_pow_pos _

theorem fitsAw_of_lt {cfg : Config} {v : Nat} (hv : v < 2 ^ 33) (h : cfg.wf = true) : fitsAw cfg v :=
  hv.trans_le (Nat.pow_le_pow_right (by omega) (bounds_of_wf h).1)

theorem fitsAw_word {cfg : Config} (w : Word) (h : cfg.wf = true) : fitsAw cfg w.toNat :=
  fitsAw_of_lt (w.isLt.trans (by omega)) h

theorem fitsAw_bool {cfg : Config} (b : Bool) (h : cfg.wf = true) : fitsAw cfg b.toNat :=
  fitsAw_of_lt ((Bool.toNat_lt b).trans (by omega)) h

theorem fitsAw_of_le_imemSize {cfg : Config} {v : Nat} (hv : v ≤ cfg.imemSize) (h : cfg.wf = true) : fitsAw cfg v :=
  hv.trans_lt (bounds_of_wf h).2.1

theorem fitsAw_of_le_omemSize {cfg : Config} {v : Nat} (hv : v ≤ cfg.omemSize) (h : cfg.wf = true) : fitsAw cfg v :=
  hv.trans_lt (bounds_of_wf h).2.2

/-- `P` survives each single write that a command or a host operation makes, under the condition on the value written
that the machine has established by then. It includes the holding registers' invariants, from which the values that
move between T, CH and DOC get their conditions. -/
structure Stable (P : State → Prop) : Prop where
  holding {s : State} : P s → s.HoldingInv
  setCode {s : State} {c : Code} : P s → c ≠ .notUtf8 → P (s.setCode c)
  setA0 {s : State} {v : Nat} : P s → fitsAw s.cfg v → P (s.setA0 v)
  setA1 {s : State} {v : Nat} : P s → fitsAw s.cfg v → P (s.setA1 v)
  setRes {s : State} {v : Nat} : P s → (s.cfg.wf = true → fitsAw s.cfg v) → P (s.setRes v)
  setEaddr {s : State} {v : Nat} : P s → (s.cfg.wf = true → fitsAw s.cfg v) → P (s.setEaddr v)
  setOptr {s : State} {v : Nat} : P s → (s.cfg.wf = true → fitsAw s.cfg v) → P (s.setOptr v)
  setCrcacc {s : State} {v : Word} : P s → P (s.setCrcacc v)
  setT {s : State} {v : Option Quad} : P s → (∀ q, v = some q → isTypeCode q = true) → P (s.setT v)
  setCh {s : State} {v : Option Chunk} : P s → (∀ c, v = some c → c.Held s.cfg) → P (s.setCh v)
  setDoc {s : State} {v : Option (List Chunk)} : P s → (∀ cs, v = some cs → DocHeld s.cfg cs) → P (s.setDoc v)
  writeImem {s : State} {a : Nat} {bs : List Byte} :
    P s → a + bs.length ≤ s.cfg.imemSize → P (s.setImem (s.imem.writeBytes a bs))
  writeOmem {s : State} {a : Nat} {bs : List Byte} :
    P s → a + bs.length ≤ s.cfg.omemSize → P (s.setOmem (s.omem.writeBytes a bs))
  setPending {s : State} {ops : List HostOp} : P s → P (s.setPending ops)
  setAnswers {s : State} {answers : List Answer} : P s → P (s.setAnswers answers)
  softReset {s : State} : P s → P s.softReset
  hardReset {s : State} {im om : List Byte} : P s → P (s.hardReset im om)

/-! ### The holding registers' invariants -/

/-- Only the build, T, CH and DOC count. -/
theorem State.HoldingInv.congr {s t : State} (h : s.HoldingInv) (hcfg : t.cfg = s.cfg) (ht : t.t = s.t)
    (hch : t.ch = s.ch) (hdoc : t.doc = s.doc) : t.HoldingInv := by
  refine .of_held (fun q hq => h.t_letters q (ht ▸ hq)) (fun c hc => ?_) (fun cs hcs => ?_) <;> rw [hcfg]
  · exact h.ch_held (hch ▸ hc)
  · exact h.doc_held (hdoc ▸ hcs)

/-- With T, CH and DOC empty nothing is asked. -/
theorem State.HoldingInv.of_empty {s : State} (ht : s.t = none) (hch : s.ch = none) (hdoc : s.doc = none) :
    s.HoldingInv :=
  .of_held (by simp [ht]) (by simp [hch]) (by simp [hdoc])

theorem holdingInv_stable : Stable State.HoldingInv where
  holding h := h
  setCode h _ := h.congr rfl rfl rfl rfl
  setA0 h _ := h.congr rfl rfl rfl rfl
  setA1 h _ := h.congr rfl rfl rfl rfl
  setRes h _ := h.congr rfl rfl rfl rfl
  setEaddr h _ := h.congr rfl rfl rfl rfl
  setOptr h _ := h.congr rfl rfl rfl rfl
  setCrcacc h := h.congr rfl rfl rfl rfl
  setT h hq := .of_held hq (fun _ => h.ch_held) (fun _ => h.doc_held)
  setCh h hc := .of_held h.t_letters hc (fun _ => h.doc_held)
  setDoc h hd := .of_held h.t_letters (fun _ => h.ch_held) hd
  writeImem h _ := h.congr rfl rfl rfl rfl
  writeOmem h _ := h.congr rfl rfl rfl rfl
  setPending h := h.congr rfl rfl rfl rfl
  setAnswers h := h.congr rfl rfl rfl rfl
  softReset _ := .of_empty rfl rfl rfl
  hardReset _ := .of_empty rfl rfl rfl

/-! ### The machine invariant -/

/-- A reset of a build R5 allows gives the invariant with any canonical memories inside their sizes (R37). -/
theorem State.launch_inv {cfg : Config} {im om : Memory} (h : cfg.wf = true) (him : im.wf = true)
    (hims : im.within cfg.imemSize = true) (hom : om.wf = true) (homs : om.within cfg.omemSize = true) :
    (State.launch cfg im om).Inv where
  cfg_wf := h
  a0_fits := fitsAw_zero cfg
  a1_fits := fitsAw_zero cfg
  res_fits := fitsAw_zero cfg
  eaddr_fits := fitsAw_zero cfg
  optr_fits := fitsAw_zero cfg
  code_produced := by simp [State.launch]
  holding := .of_empty rfl rfl rfl
  imem_wf := him
  imem_within := hims
  omem_wf := hom
  omem_within := homs

/-- The invariant asks nothing of the host's side. -/
theorem State.Inv.withHost {s : State} (h : s.Inv) (pending : List HostOp) (answers : List Answer) :
    State.Inv { s with pending, answers } :=
  { h with holding := h.holding.congr rfl rfl rfl rfl }

theorem inv_stable : Stable State.Inv where
  holding h := h.holding
  setCode h hc := { h with code_produced := hc, holding := holdingInv_stable.setCode h.holding hc }
  setA0 h hv := { h with a0_fits := hv, holding := holdingInv_stable.setA0 h.holding hv }
  setA1 h hv := { h with a1_fits := hv, holding := holdingInv_stable.setA1 h.holding hv }
  setRes h hv := { h with res_fits := hv h.cfg_wf, holding := holdingInv_stable.setRes h.holding hv }
  setEaddr h hv := { h with eaddr_fits := hv h.cfg_wf, holding := holdingInv_stable.setEaddr h.holding hv }
  setOptr h hv := { h with optr_fits := hv h.cfg_wf, holding := holdingInv_stable.setOptr h.holding hv }
  setCrcacc h := { h with holding := holdingInv_stable.setCrcacc h.holding }
  setT h hq := { h with holding := holdingInv_stable.setT h.holding hq }
  setCh h hc := { h with holding := holdingInv_stable.setCh h.holding hc }
  setDoc h hd := { h with holding := holdingInv_stable.setDoc h.holding hd }
  writeImem h hb :=
    { h with
      imem_wf := Memory.writeBytes_wf _ _ h.imem_wf
      imem_within := Memory.writeBytes_within h.imem_within hb
      holding := holdingInv_stable.writeImem h.holding hb }
  writeOmem h hb :=
    { h with
      omem_wf := Memory.writeBytes_wf _ _ h.omem_wf
      omem_within := Memory.writeBytes_within h.omem_within hb
      holding := holdingInv_stable.writeOmem h.holding hb }
  setPending h := h.withHost _ _
  setAnswers h := h.withHost _ _
  softReset h := (State.launch_inv h.cfg_wf h.imem_wf h.imem_within h.omem_wf h.omem_within).withHost _ _
  hardReset h :=
    (State.launch_inv h.cfg_wf (Memory.ofBytes_wf _ _) (Memory.ofBytes_within _ _) (Memory.ofBytes_wf _ _)
      (Memory.ofBytes_within _ _)).withHost _ _

end Sys2Proof.Machine
end

section
/-! PROOFS (statements of 00_scope). Every command completes and keeps every stable property: one rule per shared
operation, then one case per command (spec 30_encoding R102). -/

namespace Sys2Proof.Machine

/-- From `s` the result goes on in a next state, which has `P` if `s` has it. -/
def Keeps (P : State → Prop) (s : State) (r : Result) : Prop := ∃ t, r = .next t ∧ (P s → P t)

theorem Keeps.next {P : State → Prop} {s t : State} {r : Result} (h : Keeps P s r) (hs : P s) (ht : r = .next t) :
    P t := by
  obtain ⟨u, rfl, hu⟩ := h
  cases ht
  exact hu hs

section
variable {P : State → Prop} (hP : Stable P) {s : State}
include hP

theorem Stable.emptyCh (hs : P s) : P (s.setCh none) := hP.setCh hs (by simp)

/-! ### The shared operations -/

theorem keeps_completeOk {u : State} (h : P s → P u) : Keeps P s (completeOk u) :=
  ⟨_, rfl, fun hs => hP.setCode (h hs) (by decide)⟩

theorem keeps_raise {c : Code} {u : State} (hc : c ≠ .notUtf8) (h : P s → P u) : Keeps P s (raise c u) :=
  ⟨_, rfl, fun hs => hP.setRes (hP.setCode (h hs) hc) fun _ => fitsAw_zero _⟩

/-- A completion that writes nothing but CODE and RES. -/
theorem keeps_refuse {c : Code} (hc : c ≠ .notUtf8) : Keeps P s (raise c s) := keeps_raise hP hc id

/-- An OK completion that writes RES after the other writes in `u`. -/
theorem keeps_completeOk_setRes {u : State} {v : Nat} (h : P s → P u) (hv : u.cfg.wf = true → fitsAw u.cfg v) :
    Keeps P s (completeOk (u.setRes v)) :=
  keeps_completeOk hP fun hs => hP.setRes (h hs) hv

theorem keeps_withT {k : Quad → Result} (hk : ∀ q, s.t = some q → Keeps P s (k q)) : Keeps P s (withT s k) := by
  rcases withT_cases s k with ⟨-, e⟩ | ⟨q, hq, e⟩ <;> rw [e]
  · exact keeps_refuse hP (by decide)
  · exact hk q hq

theorem keeps_withCh {k : Chunk → Result} (hk : ∀ c, s.ch = some c → Keeps P s (k c)) : Keeps P s (withCh s k) := by
  rcases withCh_cases s k with ⟨-, e⟩ | ⟨c, hc, e⟩ <;> rw [e]
  · exact keeps_refuse hP (by decide)
  · exact hk c hc

theorem keeps_withDoc {k : List Chunk → Result} (hk : ∀ cs, s.doc = some cs → Keeps P s (k cs)) :
    Keeps P s (withDoc s k) := by
  rcases withDoc_cases s k with ⟨-, e⟩ | ⟨cs, hcs, e⟩ <;> rw [e]
  · exact keeps_refuse hP (by decide)
  · exact hk cs hcs

theorem keeps_emit (v : List Byte) : Keeps P s (emit v s) := by
  rcases emit_cases v s with ⟨-, e⟩ | ⟨hfit, e⟩ <;> rw [e]
  · exact keeps_refuse hP (by decide)
  · have hlen : v.length ≤ s.cfg.omemSize := by omega
    exact keeps_completeOk_setRes hP
      (fun hs => hP.setOptr (hP.writeOmem hs hfit) (fitsAw_of_le_omemSize hfit)) (fitsAw_of_le_omemSize hlen)

theorem keeps_readProperty (p : Quad → Bool) : Keeps P s (readProperty p s) :=
  keeps_withT hP fun q _ => keeps_completeOk_setRes hP id (fitsAw_bool (p q))

/-! ### The commands with more than one check -/

theorem keeps_execCrcBuf : Keeps P s (execCrcBuf s) := by
  rcases execCrcBuf_cases s with ⟨-, e⟩ | ⟨-, e⟩ <;> rw [e]
  · exact keeps_refuse hP (by decide)
  · exact keeps_completeOk hP hP.setCrcacc

theorem keeps_execCrcCheck : Keeps P s (execCrcCheck s) := by
  rcases execCrcCheck_cases s with ⟨-, e⟩ | ⟨-, -, e⟩ | ⟨-, -, e⟩ <;> rw [e]
  · exact keeps_refuse hP (by decide)
  · exact keeps_refuse hP (by decide)
  · exact keeps_completeOk_setRes hP id (fitsAw_of_lt (by omega))

/-- The two ends of both type-code constructors. -/
theorem keeps_loadT {q : Quad} (hq : isTypeCode q = true) : Keeps P s (completeOk (s.setT (some q))) :=
  keeps_completeOk hP fun hs => hP.setT hs fun _ h => Option.some.inj h ▸ hq

theorem keeps_emptyT : Keeps P s (raise .invalidTypeCode (s.setT none)) :=
  keeps_raise hP (by decide) fun hs => hP.setT hs (by simp)

theorem keeps_execTcSet4 : Keeps P s (execTcSet4 s) := by
  rcases execTcSet4_cases s with ⟨-, e⟩ | ⟨q, -, hq, e⟩ | ⟨q, -, -, e⟩ <;> rw [e]
  · exact keeps_refuse hP (by decide)
  · exact keeps_loadT hP hq
  · exact keeps_emptyT hP

theorem keeps_execTcSets : Keeps P s (execTcSets s) := by
  rcases execTcSets_cases s with ⟨-, e⟩ | ⟨-, -, e⟩ | ⟨-, -, hq, e⟩ <;> rw [e]
  · exact keeps_refuse hP (by decide)
  · exact keeps_emptyT hP
  · exact keeps_loadT hP hq

/-- Loading CH with a chunk it may hold, and RES. -/
theorem keeps_loadCh {c : Chunk} {v : Nat} (hc : s.HoldingInv → c.Held s.cfg)
    (hv : s.cfg.wf = true → fitsAw s.cfg v) : Keeps P s (completeOk ((s.setCh (some c)).setRes v)) :=
  keeps_completeOk_setRes hP (fun hs => hP.setCh hs fun _ h => Option.some.inj h ▸ hc (hP.holding hs)) hv

theorem keeps_execChNew : Keeps P s (execChNew s) := by
  rcases execChNew_cases s with ⟨-, e⟩ | ⟨q, hq, ⟨-, e⟩ | ⟨-, h32, ⟨-, e⟩ | ⟨hmax, e⟩⟩⟩ <;> rw [e]
  · exact keeps_refuse hP (by decide)
  · exact keeps_refuse hP (by decide)
  · exact keeps_refuse hP (by decide)
  · exact keeps_loadCh hP (fun h => chunkNew_held (h.t_letters q hq) (by simpa using h32) (by simpa using hmax))
      (fitsAw_word _)

theorem keeps_execChParse : Keeps P s (execChParse s) := by
  rcases execChParse_cases s with ⟨-, e⟩ | ⟨hin, ⟨c, hp, e⟩ | ⟨c, k, hp, ⟨-, e⟩ | ⟨hmax, e⟩⟩⟩ <;> rw [e]
  · exact keeps_refuse hP (by decide)
  · exact keeps_raise hP (parseRecord_error_ne_notUtf8 hp) fun hs =>
      hP.setEaddr (hP.emptyCh hs) (fitsAw_of_le_imemSize (by simp only [setCh_cfg]; omega))
  · exact keeps_refuse hP (by decide)
  · have hk : k ≤ s.a1 := by simpa using (parseRecord_consumed hp).2.1
    exact keeps_loadCh hP (fun _ => ⟨parseRecord_valid hp, hmax⟩) (fitsAw_of_le_imemSize (by omega))

theorem keeps_execDocParse : Keeps P s (execDocParse s) := by
  rcases execDocParse_cases s with ⟨-, e⟩ | ⟨hin, ⟨c, off, hp, e⟩ | ⟨cs, hp, ⟨-, e⟩ | ⟨hcap, e⟩⟩⟩ <;> rw [e]
  · exact keeps_refuse hP (by decide)
  · obtain ⟨hc, hoff⟩ := docParse_error_bounds hp
    rw [Memory.readBytes_length] at hoff
    exact keeps_raise hP hc fun hs =>
      hP.setEaddr (hP.setDoc hs (by simp)) (fitsAw_of_le_imemSize (by simp only [setDoc_cfg]; omega))
  · exact keeps_refuse hP (by decide)
  · have hlen : cs.length ≤ s.a1 := by simpa using docParse_length_le hp
    exact keeps_completeOk_setRes hP (fun hs => hP.setDoc hs fun _ h => Option.some.inj h ▸ docParse_held hp hcap)
      (fitsAw_of_le_imemSize (by simp only [setDoc_cfg]; omega))

theorem keeps_execDocGet : Keeps P s (execDocGet s) := by
  rcases execDocGet_cases s with ⟨-, e⟩ | ⟨cs, hd, ⟨-, e⟩ | ⟨c, hc, e⟩⟩ <;> rw [e]
  · exact keeps_refuse hP (by decide)
  · exact keeps_refuse hP (by decide)
  · exact keeps_loadCh hP (fun h => (h.doc_held hd).chunks c (List.mem_of_getElem? hc)) (fitsAw_word _)

theorem keeps_execDocFind : Keeps P s (execDocFind s) := by
  rcases execDocFind_cases s with ⟨-, e⟩ | ⟨cs, hd, ⟨-, e⟩ | ⟨-, ⟨i, c, hf, e⟩ | ⟨-, e⟩⟩⟩ <;> rw [e]
  · exact keeps_refuse hP (by decide)
  · exact keeps_refuse hP (by decide)
  · exact keeps_loadCh hP (fun h => (h.doc_held hd).chunks c (findFirst_mem hf).1) fun _ => countValue_fits s.cfg i
  · exact keeps_completeOk_setRes hP hP.emptyCh fun _ => countValue_fits s.cfg cs.length

theorem keeps_execDocAppend : Keeps P s (execDocAppend s) := by
  rcases execDocAppend_cases s with ⟨-, e⟩ | ⟨cs, c, hd, hc, ⟨-, e⟩ | ⟨hcount, htotal, e⟩⟩ <;> rw [e]
  · exact keeps_refuse hP (by decide)
  · exact keeps_refuse hP (by decide)
  · have hdoc (hs : P s) : DocHeld s.cfg (cs ++ [c]) :=
      ((hP.holding hs).doc_held hd).append ((hP.holding hs).ch_held hc) hcount htotal
    exact keeps_completeOk_setRes hP
      (fun hs => hP.emptyCh (hP.setDoc hs fun _ h => Option.some.inj h ▸ hdoc hs))
      fun _ => countValue_fits s.cfg (cs.length + 1)

theorem keeps_execDocRemove : Keeps P s (execDocRemove s) := by
  rcases execDocRemove_cases s with ⟨-, e⟩ | ⟨cs, hd, ⟨-, e⟩ | ⟨-, ⟨i, c, hf, e⟩ | ⟨-, e⟩⟩⟩ <;> rw [e]
  · exact keeps_refuse hP (by decide)
  · exact keeps_refuse hP (by decide)
  · have hdoc (hs : P s) : DocHeld s.cfg cs := (hP.holding hs).doc_held hd
    have hch (hs : P s) : P (s.setCh (some c)) :=
      hP.setCh hs fun _ h => Option.some.inj h ▸ (hdoc hs).chunks c (findFirst_mem hf).1
    exact keeps_completeOk_setRes hP
      (fun hs => hP.setDoc (hch hs) fun _ h => Option.some.inj h ▸ (hdoc hs).withoutIndex i)
      fun _ => countValue_fits s.cfg i
  · exact keeps_raise hP (by decide) hP.emptyCh

/-! ### Every command, and every step -/

theorem keeps_exec (i : Instr) (s : State) : Keeps P s (exec i s) := by
  cases i with
  | sysNop => exact keeps_completeOk hP id
  | sysReset => exact keeps_completeOk hP hP.softReset
  | crcInit => exact keeps_completeOk hP hP.setCrcacc
  | crcByte b => exact keeps_completeOk hP hP.setCrcacc
  | crcBuf => exact keeps_execCrcBuf hP
  | crcFin => exact keeps_completeOk_setRes hP id (fitsAw_word _)
  | crcCheck => exact keeps_execCrcCheck hP
  | tcSet4 => exact keeps_execTcSet4 hP
  | tcSets => exact keeps_execTcSets hP
  | tcBytes => exact keeps_withT hP fun _ _ => keeps_completeOk_setRes hP id (fitsAw_word _)
  | tcIsCrit => exact keeps_readProperty hP _
  | tcIsPub => exact keeps_readProperty hP _
  | tcIsRsv => exact keeps_readProperty hP _
  | tcIsSafe => exact keeps_readProperty hP _
  | tcIsValid => exact keeps_readProperty hP _
  | tcRender => exact keeps_withT hP fun _ _ => keeps_emit hP _
  | chNew => exact keeps_execChNew hP
  | chParse => exact keeps_execChParse hP
  | chEmit => exact keeps_withCh hP fun _ _ => keeps_emit hP _
  | chLen => exact keeps_withCh hP fun _ _ => keeps_completeOk_setRes hP id (fitsAw_word _)
  | chData => exact keeps_withCh hP fun _ _ => keeps_emit hP _
  | chType =>
    exact keeps_withCh hP fun c hc => keeps_completeOk hP fun hs =>
      hP.setT hs fun _ h => Option.some.inj h ▸ ((hP.holding hs).ch_valid c hc).letters
  | chCrc => exact keeps_withCh hP fun _ _ => keeps_completeOk_setRes hP id (fitsAw_word _)
  | docParse => exact keeps_execDocParse hP
  | docCount => exact keeps_withDoc hP fun cs _ => keeps_completeOk_setRes hP id fun _ => countValue_fits s.cfg cs.length
  | docGet => exact keeps_execDocGet hP
  | docFind => exact keeps_execDocFind hP
  | docAppend => exact keeps_execDocAppend hP
  | docRemove => exact keeps_execDocRemove hP
  | docEmit => exact keeps_withDoc hP fun _ _ => keeps_emit hP _

theorem keeps_issue (w : Nat) (s : State) : Keeps P s (issue w s) := by
  rcases issue_cases w s with ⟨_, -, e⟩ | ⟨i, -, e⟩ <;> rw [e]
  · exact keeps_refuse hP (by decide)
  · exact keeps_exec hP i s

theorem Stable.hostStep {op : HostOp} {t : State} (hs : P s) (h : Machine.hostStep op s = .next t) : P t := by
  rcases hostStep_next h with ⟨w, -, -, h⟩ | ⟨v, -, hv, rfl⟩ | ⟨v, -, hv, rfl⟩ | ⟨v, -, hv, rfl⟩ | ⟨n, v, -, -, rfl⟩ |
    ⟨a, bs, -, hb, rfl⟩ | ⟨ans, rfl⟩ | ⟨im, om, -, rfl⟩
  · exact (keeps_issue hP w s).next hs h
  · exact hP.setA0 hs hv
  · exact hP.setA1 hs hv
  · exact hP.setOptr hs fun _ => hv
  · exact hs
  · exact hP.writeImem hs hb
  · exact hP.setAnswers hs
  · exact hP.hardReset hs

/-- Every step keeps every stable property. -/
theorem Stable.step {t : State} (hs : P s) (h : Machine.step s = .next t) : P t := by
  obtain ⟨op, rest, -, h⟩ := step_next h
  exact hP.hostStep (hP.setPending hs) h

end

end Sys2Proof.Machine
end

section
/-! PROOFS (statements of 00_scope). The two statements. -/

open Sys2Proof.Machine

/-- Settles O51: the machine invariant survives every single write under the condition the machine makes it
(`inv_stable`), and so every step. -/
theorem everyStepKeepsTheMachineInvariant : Obligations.EveryStepKeepsTheMachineInvariant := by
  intro s t hs h
  exact inv_stable.step hs h

/-- Settles O40: each of the 30 arms of `exec` ends in one of the shared completions (`keeps_exec`). -/
theorem everyCommandCompletes : Obligations.EveryCommandCompletes := by
  intro i s
  obtain ⟨t, ht, -⟩ := keeps_exec inv_stable i s
  exact ⟨t, ht⟩

end

section
/-! PROOFS (statements of 10_state). The holding registers' invariants, reset, the STATUS word, and the operations
with no meaning. -/

namespace Sys2Proof.Machine

theorem State.softReset_eq (s : State) :
    s.softReset = { s with
      code := .ok, a0 := 0, a1 := 0, res := 0, eaddr := 0, optr := 0, crcacc := 0xFFFFFFFF,
      t := none, ch := none, doc := none } := rfl

theorem State.launch_status (cfg : Config) (im om : Memory) : (State.launch cfg im om).status = 0 := by
  simp [State.status, State.launch, State.tv, State.cv, State.dv, Code.number]

/-- The operation a step performs is the first one pending (R24). -/
theorem step_of_pending {s : State} {op : HostOp} {rest : List HostOp} (h : s.pending = op :: rest) :
    step s = hostStep op (s.setPending rest) := by
  simp [step, h]

theorem Code.number_lt (c : Code) : c.number < 12 := by
  cases c <;> decide

/-- The four fields of a STATUS word, whatever its code number and its three bits (R25). -/
theorem statusWord_fields {n : Nat} (hn : n < 12) (tv cv dv : Bool) :
    bitField (n + tv.toNat * 2 ^ 8 + cv.toNat * 2 ^ 9 + dv.toNat * 2 ^ 10) 7 0 = n ∧
      bitField (n + tv.toNat * 2 ^ 8 + cv.toNat * 2 ^ 9 + dv.toNat * 2 ^ 10) 8 8 = tv.toNat ∧
      bitField (n + tv.toNat * 2 ^ 8 + cv.toNat * 2 ^ 9 + dv.toNat * 2 ^ 10) 9 9 = cv.toNat ∧
      bitField (n + tv.toNat * 2 ^ 8 + cv.toNat * 2 ^ 9 + dv.toNat * 2 ^ 10) 10 10 = dv.toNat ∧
      n + tv.toNat * 2 ^ 8 + cv.toNat * 2 ^ 9 + dv.toNat * 2 ^ 10 < 2 ^ 11 := by
  have ht := Bool.toNat_lt tv
  have hc := Bool.toNat_lt cv
  have hd := Bool.toNat_lt dv
  simp only [bitField]
  omega

theorem isSome_toNat_eq_one {α : Type} (o : Option α) : o.isSome.toNat = 1 ↔ o ≠ none := by
  cases o <;> simp

/-- The invariants hold in every state a run reaches: they hold at launch and every step keeps them (R39). -/
theorem Reachable.holdingInv {s : State} (h : Reachable s) : s.HoldingInv := by
  induction h with
  | launch cfg im om ops => exact .of_empty rfl rfl rfl
  | step s t _ hstep ih => exact holdingInv_stable.step ih hstep

end Sys2Proof.Machine

open Sys2Proof Sys2Proof.Machine

/-- Settles O50: the three invariants survive every single write under the condition the machine makes it
(`holdingInv_stable`), and so every step and every run. -/
theorem holdingRegisterInvariants : Obligations.HoldingRegisterInvariants :=
  ⟨fun _ _ => holdingInv_stable.step, fun _ => Reachable.holdingInv⟩

/-- Settles O7: the STATUS word is a sum of fields that do not overlap (`statusWord_fields`). -/
theorem statusWordFields : Obligations.StatusWordFields := by
  intro s
  obtain ⟨hcode, htv, hcv, hdv, hlt⟩ := statusWord_fields s.code.number_lt s.tv s.cv s.dv
  refine ⟨fun p hp hc => ?_, ?_, ?_, ?_, hlt⟩
  · have hnum : p.1.number = p.2 := by fin_cases hp <;> rfl
    rw [State.status, hcode, hc, hnum]
  · rw [State.status, htv]
    exact isSome_toNat_eq_one s.t
  · rw [State.status, hcv]
    exact isSome_toNat_eq_one s.ch
  · rw [State.status, hdv]
    exact isSome_toNat_eq_one s.doc

/-- Settles O9: each of the four operations fails the first test its rule makes. -/
theorem operationsWithNoMeaningAreRefused : Obligations.OperationsWithNoMeaningAreRefused := by
  refine ⟨fun s rest n hp hn => ?_, fun s rest n v hp hn hv => ?_, fun s rest n v hp hv => ?_, fun s hp => ?_⟩
  · obtain ⟨m, rfl⟩ := Nat.exists_eq_add_of_le' hn
    rw [step_of_pending hp]
    rfl
  · obtain ⟨m, rfl⟩ := Nat.exists_eq_add_of_le' hn
    rw [step_of_pending hp]
    exact if_pos hv
  · rw [step_of_pending hp]
    exact if_neg (Nat.not_lt.mpr hv)
  · simp [step, hp]

/-- Settles O11: both resets are R37's record. -/
theorem resetValues : Obligations.ResetValues := by
  refine ⟨fun cfg im om => ⟨rfl, State.launch_status cfg im om⟩, ⟨Config.suggested, [], [], rfl, ?_⟩, fun s => ?_⟩
  · decide
  · exact completeOk_next.mpr s.softReset_eq.symm

/-- Settles O52: `State.launch_inv` at the build and the empty memories of `State.reset`, and as it stands. -/
theorem invariantHoldsAfterReset : Obligations.InvariantHoldsAfterReset := by
  refine ⟨?_, fun _ _ _ => State.launch_inv⟩
  exact State.launch_inv (cfg := Config.suggested) (by decide) rfl rfl rfl rfl

end

section
/-! PROOFS (statements of 10_state). What a completed command has written, said once for all 30 commands (`Ends`,
`exec_ends`); the statements about single registers are read off it. -/

namespace Sys2Proof.Machine

/-- The commands that report a value in RES and write nothing else. -/
def reportCommands : List Instr :=
  [.crcFin, .crcCheck, .tcBytes, .tcIsCrit, .tcIsPub, .tcIsRsv, .tcIsSafe, .tcIsValid, .chLen, .chCrc, .docCount]

/-- The commands that write OMEM (R65). -/
def outputCommands : List Instr := [.tcRender, .chEmit, .chData, .docEmit]

theorem storeFull_possible_of_output : ∀ i ∈ outputCommands, Code.storeFull ∈ possibleCodes i := by decide

/-- The ways a command ends (R280, R283): the next state of command `i` from `s`, as the writes it made. -/
inductive Ends (s : State) : Instr → State → Prop where
  /-- A refusal (R282) by a code of the command's row (R285): CODE and RES only. -/
  | refused {i : Instr} {c : Code} (hc : c.isRefusal = true) (hrow : c ∈ possibleCodes i) :
      Ends s i ((s.setCode c).setRes 0)
  | nop : Ends s .sysNop (s.setCode .ok)
  | reset : Ends s .sysReset (s.softReset.setCode .ok)
  /-- CRC.INIT, CRC.BYTE, CRC.BUF. -/
  | accumulated {i : Instr} (hi : i = .crcInit ∨ (∃ b, i = .crcByte b) ∨ i = .crcBuf) (v : Word) :
      Ends s i ((s.setCrcacc v).setCode .ok)
  | mismatched : Ends s .crcCheck ((s.setCode .crcMismatch).setRes 0)
  | reported {i : Instr} (hi : i ∈ reportCommands) (v : Nat) : Ends s i ((s.setRes v).setCode .ok)
  | output {i : Instr} (hi : i ∈ outputCommands) (bs : List Byte) :
      Ends s i ((((s.setOmem (s.omem.writeBytes s.optr bs)).setOptr (s.optr + bs.length)).setRes bs.length).setCode .ok)
  | loadedT {i : Instr} (hi : i ∈ [Instr.tcSet4, .tcSets, .chType]) (q : Quad) :
      Ends s i ((s.setT (some q)).setCode .ok)
  | emptiedT {i : Instr} (hi : i ∈ [Instr.tcSet4, .tcSets]) :
      Ends s i (((s.setT none).setCode .invalidTypeCode).setRes 0)
  | loadedCh {i : Instr} (hi : i ∈ [Instr.chNew, .chParse, .docGet]) (c : Chunk) (v : Nat) :
      Ends s i (((s.setCh (some c)).setRes v).setCode .ok)
  | unparsedCh {e : Code} (he : parseRecord (s.imem.readBytes s.a0 s.a1) = .error e) :
      Ends s .chParse ((((s.setCh none).setEaddr s.a0).setCode e).setRes 0)
  | loadedDoc (cs : List Chunk) (v : Nat) : Ends s .docParse (((s.setDoc (some cs)).setRes v).setCode .ok)
  | unparsedDoc {e : Code} {off : Nat} (he : docParse (s.imem.readBytes s.a0 s.a1) = .error (e, off)) :
      Ends s .docParse ((((s.setDoc none).setEaddr (s.a0 + off)).setCode e).setRes 0)
  /-- DOC.FIND: CH gets the first chunk of the key's type, or none (R248). -/
  | lookedUp {cs : List Chunk} (hd : s.doc = some cs) (v : Nat) :
      Ends s .docFind (((s.setCh ((findFirst cs (be32 (BitVec.ofNat 32 s.a0))).map Prod.snd)).setRes v).setCode .ok)
  | appended {cs : List Chunk} {c : Chunk} (hd : s.doc = some cs) (hc : s.ch = some c) (v : Nat) :
      Ends s .docAppend ((((s.setDoc (some (cs ++ [c]))).setCh none).setRes v).setCode .ok)
  | removed {cs : List Chunk} (hd : s.doc = some cs) (c : Chunk) (n v : Nat) :
      Ends s .docRemove ((((s.setCh (some c)).setDoc (some (withoutIndex cs n))).setRes v).setCode .ok)
  | notFound : Ends s .docRemove (((s.setCh none).setCode .chunkNotFound).setRes 0)

/-- The result is a next state that command `i` can end in. -/
def EndsIn (s : State) (i : Instr) (r : Result) : Prop := ∃ t, r = .next t ∧ Ends s i t

/-! ### The shared operations -/

section
variable {s : State} {i : Instr}

theorem endsIn_refusal {c : Code} (hc : c.isRefusal = true) (hrow : c ∈ possibleCodes i) : EndsIn s i (raise c s) :=
  ⟨_, rfl, .refused hc hrow⟩

theorem endsIn_withT {k : Quad → Result} (hrow : .noValue ∈ possibleCodes i) (hk : ∀ q, EndsIn s i (k q)) :
    EndsIn s i (withT s k) := by
  rcases withT_cases s k with ⟨-, e⟩ | ⟨q, -, e⟩ <;> rw [e]
  · exact endsIn_refusal rfl hrow
  · exact hk q

theorem endsIn_withCh {k : Chunk → Result} (hrow : .noValue ∈ possibleCodes i) (hk : ∀ c, EndsIn s i (k c)) :
    EndsIn s i (withCh s k) := by
  rcases withCh_cases s k with ⟨-, e⟩ | ⟨c, -, e⟩ <;> rw [e]
  · exact endsIn_refusal rfl hrow
  · exact hk c

theorem endsIn_withDoc {k : List Chunk → Result} (hrow : .noValue ∈ possibleCodes i) (hk : ∀ cs, EndsIn s i (k cs)) :
    EndsIn s i (withDoc s k) := by
  rcases withDoc_cases s k with ⟨-, e⟩ | ⟨cs, -, e⟩ <;> rw [e]
  · exact endsIn_refusal rfl hrow
  · exact hk cs

theorem endsIn_emit (hi : i ∈ outputCommands) (bs : List Byte) :
    EndsIn s i (emit bs s) := by
  rcases emit_cases bs s with ⟨-, e⟩ | ⟨-, e⟩ <;> rw [e]
  · exact endsIn_refusal rfl (storeFull_possible_of_output i hi)
  · exact ⟨_, rfl, .output hi bs⟩

theorem endsIn_report (hi : i ∈ reportCommands) (v : Nat) : EndsIn s i (completeOk (s.setRes v)) :=
  ⟨_, rfl, .reported hi v⟩

theorem endsIn_readProperty (hrow : .noValue ∈ possibleCodes i) (hi : i ∈ reportCommands) (p : Quad → Bool) :
    EndsIn s i (readProperty p s) :=
  endsIn_withT hrow fun q => endsIn_report hi (p q).toNat

end

/-! ### The commands with more than one check -/

theorem endsIn_crcBuf (s : State) : EndsIn s .crcBuf (execCrcBuf s) := by
  rcases execCrcBuf_cases s with ⟨-, e⟩ | ⟨-, e⟩ <;> rw [e]
  · exact endsIn_refusal rfl (by decide)
  · exact ⟨_, rfl, .accumulated (by simp) _⟩

theorem endsIn_crcCheck (s : State) : EndsIn s .crcCheck (execCrcCheck s) := by
  rcases execCrcCheck_cases s with ⟨-, e⟩ | ⟨-, -, e⟩ | ⟨-, -, e⟩ <;> rw [e]
  · exact endsIn_refusal rfl (by decide)
  · exact ⟨_, rfl, .mismatched⟩
  · exact endsIn_report (by decide) 1

theorem endsIn_tcSet4 (s : State) : EndsIn s .tcSet4 (execTcSet4 s) := by
  rcases execTcSet4_cases s with ⟨-, e⟩ | ⟨q, -, -, e⟩ | ⟨q, -, -, e⟩ <;> rw [e]
  · exact endsIn_refusal rfl (by decide)
  · exact ⟨_, rfl, .loadedT (by decide) q⟩
  · exact ⟨_, rfl, .emptiedT (by decide)⟩

theorem endsIn_tcSets (s : State) : EndsIn s .tcSets (execTcSets s) := by
  rcases execTcSets_cases s with ⟨-, e⟩ | ⟨-, -, e⟩ | ⟨-, -, -, e⟩ <;> rw [e]
  · exact endsIn_refusal rfl (by decide)
  · exact ⟨_, rfl, .emptiedT (by decide)⟩
  · exact ⟨_, rfl, .loadedT (by decide) _⟩

theorem endsIn_chNew (s : State) : EndsIn s .chNew (execChNew s) := by
  rcases execChNew_cases s with ⟨-, e⟩ | ⟨q, -, ⟨-, e⟩ | ⟨-, -, ⟨-, e⟩ | ⟨-, e⟩⟩⟩ <;> rw [e]
  · exact endsIn_refusal rfl (by decide)
  · exact endsIn_refusal rfl (by decide)
  · exact endsIn_refusal rfl (by decide)
  · exact ⟨_, rfl, .loadedCh (by decide) _ _⟩

theorem endsIn_chParse (s : State) : EndsIn s .chParse (execChParse s) := by
  rcases execChParse_cases s with ⟨-, e⟩ | ⟨-, ⟨c, hp, e⟩ | ⟨c, k, -, ⟨-, e⟩ | ⟨-, e⟩⟩⟩ <;> rw [e]
  · exact endsIn_refusal rfl (by decide)
  · exact ⟨_, rfl, .unparsedCh hp⟩
  · exact endsIn_refusal rfl (by decide)
  · exact ⟨_, rfl, .loadedCh (by decide) c k⟩

theorem endsIn_docParse (s : State) : EndsIn s .docParse (execDocParse s) := by
  rcases execDocParse_cases s with ⟨-, e⟩ | ⟨-, ⟨c, off, hp, e⟩ | ⟨cs, -, ⟨-, e⟩ | ⟨-, e⟩⟩⟩ <;> rw [e]
  · exact endsIn_refusal rfl (by decide)
  · exact ⟨_, rfl, .unparsedDoc hp⟩
  · exact endsIn_refusal rfl (by decide)
  · exact ⟨_, rfl, .loadedDoc cs cs.length⟩

theorem endsIn_docGet (s : State) : EndsIn s .docGet (execDocGet s) := by
  rcases execDocGet_cases s with ⟨-, e⟩ | ⟨cs, -, ⟨-, e⟩ | ⟨c, -, e⟩⟩ <;> rw [e]
  · exact endsIn_refusal rfl (by decide)
  · exact endsIn_refusal rfl (by decide)
  · exact ⟨_, rfl, .loadedCh (by decide) c _⟩

theorem endsIn_docFind (s : State) : EndsIn s .docFind (execDocFind s) := by
  rcases execDocFind_cases s with ⟨-, e⟩ | ⟨cs, hd, ⟨-, e⟩ | ⟨-, ⟨n, c, hf, e⟩ | ⟨hf, e⟩⟩⟩ <;> rw [e]
  · exact endsIn_refusal rfl (by decide)
  · exact endsIn_refusal rfl (by decide)
  · exact ⟨_, rfl, by simpa [hf] using Ends.lookedUp hd (countValue s.cfg n)⟩
  · exact ⟨_, rfl, by simpa [hf] using Ends.lookedUp hd (countValue s.cfg cs.length)⟩

theorem endsIn_docAppend (s : State) : EndsIn s .docAppend (execDocAppend s) := by
  rcases execDocAppend_cases s with ⟨-, e⟩ | ⟨cs, c, hd, hc, ⟨-, e⟩ | ⟨-, -, e⟩⟩ <;> rw [e]
  · exact endsIn_refusal rfl (by decide)
  · exact endsIn_refusal rfl (by decide)
  · exact ⟨_, rfl, .appended hd hc _⟩

theorem endsIn_docRemove (s : State) : EndsIn s .docRemove (execDocRemove s) := by
  rcases execDocRemove_cases s with ⟨-, e⟩ | ⟨cs, hd, ⟨-, e⟩ | ⟨-, ⟨n, c, -, e⟩ | ⟨-, e⟩⟩⟩ <;> rw [e]
  · exact endsIn_refusal rfl (by decide)
  · exact endsIn_refusal rfl (by decide)
  · exact ⟨_, rfl, .removed hd c n _⟩
  · exact ⟨_, rfl, .notFound⟩

/-! ### Every command -/

theorem endsIn_exec (i : Instr) (s : State) : EndsIn s i (exec i s) := by
  cases i with
  | sysNop => exact ⟨_, rfl, .nop⟩
  | sysReset => exact ⟨_, rfl, .reset⟩
  | crcInit => exact ⟨_, rfl, .accumulated (by simp) _⟩
  | crcByte b => exact ⟨_, rfl, .accumulated (by simp) _⟩
  | crcBuf => exact endsIn_crcBuf s
  | crcFin => exact endsIn_report (by decide) _
  | crcCheck => exact endsIn_crcCheck s
  | tcSet4 => exact endsIn_tcSet4 s
  | tcSets => exact endsIn_tcSets s
  | tcBytes => exact endsIn_withT (by decide) fun q => endsIn_report (by decide) _
  | tcIsCrit => exact endsIn_readProperty (by decide) (by decide) _
  | tcIsPub => exact endsIn_readProperty (by decide) (by decide) _
  | tcIsRsv => exact endsIn_readProperty (by decide) (by decide) _
  | tcIsSafe => exact endsIn_readProperty (by decide) (by decide) _
  | tcIsValid => exact endsIn_readProperty (by decide) (by decide) _
  | tcRender => exact endsIn_withT (by decide) fun q => endsIn_emit (by decide) _
  | chNew => exact endsIn_chNew s
  | chParse => exact endsIn_chParse s
  | chEmit => exact endsIn_withCh (by decide) fun c => endsIn_emit (by decide) _
  | chLen => exact endsIn_withCh (by decide) fun c => endsIn_report (by decide) _
  | chData => exact endsIn_withCh (by decide) fun c => endsIn_emit (by decide) _
  | chType => exact endsIn_withCh (by decide) fun c => ⟨_, rfl, .loadedT (by decide) c.typ⟩
  | chCrc => exact endsIn_withCh (by decide) fun c => endsIn_report (by decide) _
  | docParse => exact endsIn_docParse s
  | docCount => exact endsIn_withDoc (by decide) fun cs => endsIn_report (by decide) _
  | docGet => exact endsIn_docGet s
  | docFind => exact endsIn_docFind s
  | docAppend => exact endsIn_docAppend s
  | docRemove => exact endsIn_docRemove s
  | docEmit => exact endsIn_withDoc (by decide) fun cs => endsIn_emit (by decide) _

/-- A command that goes on has made the writes of one of its ends. -/
theorem exec_ends {i : Instr} {s t : State} (h : exec i s = .next t) : Ends s i t := by
  obtain ⟨u, hu, hends⟩ := endsIn_exec i s
  rw [hu] at h
  cases h
  exact hends

/-! ### Which ends write which register -/

section
variable {s t : State} {i : Instr}

theorem Ends.operands_kept (h : Ends s i t) (hi : i ≠ .sysReset) : t.a0 = s.a0 ∧ t.a1 = s.a1 := by
  cases h with
  | reset => exact absurd rfl hi
  | _ => exact ⟨rfl, rfl⟩

theorem Ends.host_kept (h : Ends s i t) : t.cfg = s.cfg ∧ t.pending = s.pending ∧ t.answers = s.answers := by
  cases h <;> exact ⟨rfl, rfl, rfl⟩

theorem Ends.crcacc_kept (h : Ends s i t) (hinit : i ≠ .crcInit) (hbyte : ∀ b, i ≠ .crcByte b) (hbuf : i ≠ .crcBuf)
    (hreset : i ≠ .sysReset) : t.crcacc = s.crcacc := by
  cases h with
  | reset => exact absurd rfl hreset
  | accumulated hi =>
    rcases hi with rfl | ⟨b, rfl⟩ | rfl
    · exact absurd rfl hinit
    · exact absurd rfl (hbyte b)
    · exact absurd rfl hbuf
  | _ => rfl

/-- Only a parse command that fails with one of five codes writes EADDR (R26). -/
theorem Ends.eaddr_kept (h : Ends s i t) (hi : i ≠ .sysReset)
    (hcode : ¬ ((i = .chParse ∨ i = .docParse) ∧
      t.code ∈ [Code.truncatedChunk, .oversizedChunk, .invalidTypeCode, .crcMismatch, .badSignature])) :
    t.eaddr = s.eaddr := by
  cases h with
  | reset => exact absurd rfl hi
  | unparsedCh he =>
    refine absurd ⟨.inl rfl, ?_⟩ hcode
    rcases parseRecord_error he with rfl | rfl | rfl | rfl <;> simp
  | unparsedDoc he =>
    refine absurd ⟨.inr rfl, ?_⟩ hcode
    rcases docParse_error he with ⟨rfl, -⟩ | ⟨rfl | rfl | rfl | rfl, -⟩ <;> simp
  | _ => rfl

theorem Ends.t_kept (h : Ends s i t)
    (hi : i ∉ [Instr.tcSet4, .tcSets, .chType, .sysReset] ∨ t.code.isRefusal = true) : t.t = s.t := by
  cases h with
  | reset => simp [Code.isRefusal] at hi
  | loadedT hw => simp_all [Code.isRefusal]
  | emptiedT hw => simp_all [Code.isRefusal]
  | _ => rfl

theorem Ends.ch_kept (h : Ends s i t)
    (hi : i ∉ [Instr.chNew, .chParse, .docGet, .docFind, .docRemove, .docAppend, .sysReset] ∨
      t.code.isRefusal = true) : t.ch = s.ch := by
  cases h with
  | loadedCh hw => simp_all [Code.isRefusal]
  | unparsedCh he => rcases parseRecord_error he with rfl | rfl | rfl | rfl <;> simp [Code.isRefusal] at hi
  | reset | lookedUp | appended | removed | notFound => simp [Code.isRefusal] at hi
  | _ => rfl

theorem Ends.dv_kept (h : Ends s i t) (hi : i ∉ [Instr.docParse, .sysReset] ∨ t.code.isRefusal = true) :
    t.dv = s.dv := by
  cases h with
  | reset | loadedDoc => simp [Code.isRefusal] at hi
  | unparsedDoc he =>
    rcases docParse_error he with ⟨rfl, -⟩ | ⟨rfl | rfl | rfl | rfl, -⟩ <;> simp [Code.isRefusal] at hi
  | appended hd | removed hd => simp [State.dv, hd]
  | _ => rfl

/-! ### What sets and what clears a valid bit (R33) -/

theorem refusal_ne_ok {c : Code} (hc : c.isRefusal = true) : c ≠ .ok := by
  rintro rfl
  cases hc

/-- The codes of a record that fails to parse (R196). -/
theorem recordCode_not_refusal :
    ∀ c ∈ [Code.truncatedChunk, .oversizedChunk, .invalidTypeCode, .crcMismatch], c ≠ .ok ∧ c.isRefusal = false := by
  decide

theorem parseRecord_error_not_refusal {bytes : List Byte} {e : Code} (h : parseRecord bytes = .error e) :
    e ≠ .ok ∧ e.isRefusal = false := by
  rcases parseRecord_error h with rfl | rfl | rfl | rfl <;> decide

theorem docParse_error_not_refusal {bytes : List Byte} {e : Code} {off : Nat}
    (h : docParse bytes = .error (e, off)) : e ≠ .ok ∧ e.isRefusal = false := by
  rcases docParse_error h with ⟨rfl, -⟩ | ⟨rfl | rfl | rfl | rfl, -⟩ <;> decide

/-- A source-defined failure of CH.PARSE (R211, R283): `parse_record` gave the code. -/
theorem Ends.failed_chParse (h : Ends s .chParse t) (hok : t.code ≠ .ok) (hcode : t.code.isRefusal = false) :
    ∃ e, parseRecord (s.imem.readBytes s.a0 s.a1) = .error e ∧
      t = (((s.setCh none).setEaddr s.a0).setCode e).setRes 0 := by
  cases h with
  | unparsedCh he => exact ⟨_, he, rfl⟩
  | refused hc => exact absurd hcode (by simp [hc])
  | emptiedT hw => simp at hw
  | _ => exact absurd rfl hok

/-- A source-defined failure of DOC.PARSE (R245, R283): `doc_parse` gave the code and the offset. -/
theorem Ends.failed_docParse (h : Ends s .docParse t) (hok : t.code ≠ .ok) (hcode : t.code.isRefusal = false) :
    ∃ e off, docParse (s.imem.readBytes s.a0 s.a1) = .error (e, off) ∧
      t = (((s.setDoc none).setEaddr (s.a0 + off)).setCode e).setRes 0 := by
  cases h with
  | unparsedDoc he => exact ⟨_, _, he, rfl⟩
  | refused hc => exact absurd hcode (by simp [hc])
  | emptiedT hw => simp at hw
  | _ => exact absurd rfl hok

theorem Ends.tv_set (h : Ends s i t) (hi : i = .tcSet4 ∨ i = .tcSets ∨ i = .chType) (hok : t.code = .ok) :
    t.tv = true := by
  cases h with
  | loadedT => rfl
  | refused hc => exact absurd hok (refusal_ne_ok hc)
  | emptiedT => cases hok
  | accumulated hw | reported hw | output hw | loadedCh hw =>
    rcases hi with rfl | rfl | rfl <;> simp [reportCommands, outputCommands] at hw
  | _ => simp at hi

theorem Ends.tv_cleared (h : Ends s i t) (hi : i = .tcSet4 ∨ i = .tcSets) (hcode : t.code = .invalidTypeCode) :
    t.tv = false := by
  cases h with
  | emptiedT => rfl
  | refused hc =>
    cases hcode
    cases hc
  | accumulated | reported | output | loadedT | loadedCh => cases hcode
  | _ => simp at hi

theorem Ends.cv_set (h : Ends s i t) (hi : i = .chNew ∨ i = .chParse ∨ i = .docGet ∨ i = .docRemove)
    (hok : t.code = .ok) : t.cv = true := by
  cases h with
  | loadedCh | removed => rfl
  | refused hc => exact absurd hok (refusal_ne_ok hc)
  | unparsedCh he => exact absurd hok (parseRecord_error_not_refusal he).1
  | emptiedT | notFound => cases hok
  | accumulated hw | reported hw | output hw | loadedT hw =>
    rcases hi with rfl | rfl | rfl | rfl <;> simp [reportCommands, outputCommands] at hw
  | _ => simp at hi

theorem Ends.cv_cleared_of_chParse (h : Ends s .chParse t) (hok : t.code ≠ .ok) (hcode : t.code.isRefusal = false) :
    t.cv = false := by
  obtain ⟨e, -, rfl⟩ := h.failed_chParse hok hcode
  rfl

theorem Ends.cv_cleared_of_docRemove (h : Ends s .docRemove t) (hcode : t.code = .chunkNotFound) : t.cv = false := by
  cases h with
  | notFound => rfl
  | refused hc =>
    cases hcode
    cases hc
  | _ => cases hcode

theorem Ends.cv_cleared_of_docAppend (h : Ends s .docAppend t) (hok : t.code = .ok) : t.cv = false := by
  cases h with
  | appended => rfl
  | refused hc => exact absurd hok (refusal_ne_ok hc)
  | emptiedT => cases hok
  | accumulated hw | reported hw | output hw | loadedT hw | loadedCh hw => simp [reportCommands, outputCommands] at hw

/-- DOC.FIND sets CV exactly when it finds (R248). -/
theorem Ends.cv_of_docFind (h : Ends s .docFind t) (hok : t.code = .ok) {cs : List Chunk} (hd : s.doc = some cs) :
    t.cv = true ↔ ∃ c ∈ cs, c.typ = be32 (BitVec.ofNat 32 s.a0) := by
  cases h with
  | lookedUp hd' =>
    obtain rfl := Option.some.inj (hd.symm.trans hd')
    have hnone := findFirst_none (cs := cs) (k := be32 (BitVec.ofNat 32 s.a0))
    rw [← not_iff_not]
    simpa [State.cv] using hnone
  | refused hc => exact absurd hok (refusal_ne_ok hc)
  | emptiedT => cases hok
  | accumulated hw | reported hw | output hw | loadedT hw | loadedCh hw => simp [reportCommands, outputCommands] at hw

theorem Ends.dv_set (h : Ends s .docParse t) (hok : t.code = .ok) : t.dv = true := by
  cases h with
  | loadedDoc => rfl
  | refused hc => exact absurd hok (refusal_ne_ok hc)
  | unparsedDoc he => exact absurd hok (docParse_error_not_refusal he).1
  | emptiedT => cases hok
  | accumulated hw | reported hw | output hw | loadedT hw | loadedCh hw => simp [reportCommands, outputCommands] at hw

theorem Ends.dv_cleared (h : Ends s .docParse t) (hok : t.code ≠ .ok) (hcode : t.code.isRefusal = false) :
    t.dv = false := by
  obtain ⟨e, off, -, rfl⟩ := h.failed_docParse hok hcode
  rfl

end

end Sys2Proof.Machine
end

section
/-! PROOFS (statements of 10_state). The record at which DOC.PARSE fails (spec 43_document R233, 10_state R26). -/

namespace Sys2Proof.Machine

/-- The deserializer accepts only serializer outputs (R198): the bytes consumed are the chunk's record. -/
theorem parseRecord_take {s : List Byte} {c : Chunk} {k : Nat} (h : parseRecord s = .ok (c, k)) :
    s.take k = chunkBytes c := by
  obtain ⟨-, -, hlen, hk, htyp, hl, hdata, -, hcrc⟩ := parseRecord_ok h
  rw [← hl] at hlen hk
  have hlenBytes : (be32 c.len).bytes = s.take 4 := by
    rw [hl, be32_fromBe32, quadAt_bytes_eq_take (by omega), List.drop_zero]
  have htypBytes : c.typ.bytes = (s.drop 4).take 4 := by rw [htyp, quadAt_bytes_eq_take (by omega)]
  have hcrcBytes : (be32 c.crc).bytes = (s.drop (8 + c.len.toNat)).take 4 := by
    rw [hcrc, be32_fromBe32, quadAt_bytes_eq_take (by omega)]
  rw [hk, chunkBytes, hlenBytes, htypBytes, hdata, hcrcBytes, ← List.take_add, ← List.take_add, ← List.take_add]
  congr 1
  omega

theorem parseRecord_len_le {s : List Byte} {c : Chunk} {k : Nat} (h : parseRecord s = .ok (c, k)) :
    c.len.toNat ≤ lenCeiling := by
  obtain ⟨hceil, -, -, -, -, hl, -⟩ := parseRecord_ok h
  rwa [hl]

/-- The bytes `s` are the records `cs`, then a rest that `parse_record` refuses with code `e`. -/
structure FailsAfter (s : List Byte) (e : Code) (cs : List Chunk) (r : List Byte) : Prop where
  before : ∀ c ∈ cs, c.Valid ∧ c.len.toNat ≤ 2 ^ 31
  bytes : s = recordsBytes cs ++ r
  nonempty : r ≠ []
  refused : parseRecord r = .error e

/-- One more record in front. -/
theorem FailsAfter.cons {s r : List Byte} {e : Code} {c : Chunk} {k : Nat} {cs : List Chunk}
    (hp : parseRecord s = .ok (c, k)) (h : FailsAfter (s.drop k) e cs r) : FailsAfter s e (c :: cs) r where
  before := List.forall_mem_cons.mpr ⟨⟨parseRecord_valid hp, parseRecord_len_le hp⟩, h.before⟩
  bytes := by
    calc s = s.take k ++ s.drop k := (List.take_append_drop k s).symm
      _ = recordsBytes (c :: cs) ++ r := by rw [parseRecord_take hp, h.bytes, recordsBytes, List.append_assoc]
  nonempty := h.nonempty
  refused := h.refused

/-- A failing loop with fuel enough for its bytes stops at the first record that fails to parse. -/
theorem docRecords_failsAfter {f pos : Nat} {s : List Byte} {e : Code} {off : Nat} (hf : s.length ≤ f)
    (h : docRecords f pos s = .error (e, off)) :
    ∃ cs r, FailsAfter s e cs r ∧ off = pos + (recordsBytes cs).length := by
  induction f generalizing pos s with
  | zero =>
    rw [List.length_eq_zero_iff.mp (Nat.le_zero.mp hf)] at h
    cases h
  | succ f ih =>
    cases s with
    | nil => cases h
    | cons b rest =>
      rw [docRecords_turn (by simp)] at h
      cases hp : parseRecord (b :: rest) with
      | error c =>
        simp only [hp, Except.error.injEq, Prod.mk.injEq] at h
        obtain ⟨rfl, rfl⟩ := h
        exact ⟨[], b :: rest, ⟨by simp, rfl, by simp, hp⟩, rfl⟩
      | ok p =>
        obtain ⟨c, k⟩ := p
        obtain ⟨hk, hkle, -⟩ := parseRecord_consumed hp
        simp only [hp] at h
        cases hr : docRecords f (pos + k) ((b :: rest).drop k) with
        | ok ds => simp [hr] at h
        | error e' =>
          simp only [hr, Except.error.injEq] at h
          subst h
          have hfuel : ((b :: rest).drop k).length ≤ f := by
            rw [List.length_drop]
            omega
          obtain ⟨cs, r, hcs, hoff⟩ := ih hfuel hr
          have hck : (chunkBytes c).length = k := by rw [← parseRecord_take hp, List.length_take_of_le hkle]
          refine ⟨c :: cs, r, hcs.cons hp, ?_⟩
          rw [hoff, recordsBytes, List.length_append, hck, Nat.add_assoc]

/-- A `doc_parse` that fails otherwise than by its signature (R233): the signature and whole records stand before the
offset, and the record there gives the code. -/
theorem docParse_failsAfter {s : List Byte} {e : Code} {off : Nat} (h : docParse s = .error (e, off))
    (he : e ≠ .badSignature) :
    ∃ cs r, FailsAfter (s.drop 8) e cs r ∧ s = docBytes cs ++ r ∧ off = (docBytes cs).length := by
  simp only [docParse] at h
  split_ifs at h with hsig
  · obtain ⟨cs, r, hcs, hoff⟩ := docRecords_failsAfter (by simp) h
    refine ⟨cs, r, hcs, ?_, ?_⟩
    · rw [docBytes, List.append_assoc, ← hcs.bytes, ← hsig, List.take_append_drop]
    · rw [docBytes, List.length_append, hoff]
      rfl
  · cases h
    exact absurd rfl he

/-- A `doc_parse` that fails by its signature gives offset 0 (R233). -/
theorem docParse_badSignature {s : List Byte} {off : Nat} (h : docParse s = .error (.badSignature, off)) : off = 0 := by
  rcases docParse_error h with ⟨-, hoff⟩ | ⟨hcode, -⟩
  · exact hoff
  · simp at hcode

end Sys2Proof.Machine
end

section
/-! PROOFS (statements of 10_state). A command outside the CRC family does the same whatever CRCACC holds (R34): its
result with another CRCACC is its result, with that CRCACC. -/

namespace Sys2Proof.Machine

/-- A result with CRCACC replaced in its next state. -/
def withCrcacc (x : Word) : Result → Result
  | .next t => .next (t.setCrcacc x)
  | r => r

section
variable {x : Word} {s : State}

theorem withSlice_setCrcacc {k k' : List Byte → Result} (hk : ∀ bytes, k' bytes = withCrcacc x (k bytes)) :
    withSlice (s.setCrcacc x) k' = withCrcacc x (withSlice s k) := by
  rcases withSlice_cases s k with ⟨h, e⟩ | ⟨h, e⟩ <;> rw [e]
  · exact withSlice_of_out k' h
  · exact (withSlice_of_in (s := s.setCrcacc x) k' h).trans (hk _)

theorem withPacked_setCrcacc {k k' : Quad → Result} (hk : ∀ q, k' q = withCrcacc x (k q)) :
    withPacked (s.setCrcacc x) k' = withCrcacc x (withPacked s k) := by
  rcases withPacked_cases s k with ⟨h, e⟩ | ⟨h, e⟩ <;> rw [e]
  · exact withPacked_of_wide k' h
  · exact (withPacked_of_narrow (s := s.setCrcacc x) k' h).trans (hk _)

theorem withT_setCrcacc {k k' : Quad → Result} (hk : ∀ q, k' q = withCrcacc x (k q)) :
    withT (s.setCrcacc x) k' = withCrcacc x (withT s k) := by
  rcases withT_cases s k with ⟨h, e⟩ | ⟨q, h, e⟩ <;> rw [e]
  · exact withT_none k' h
  · exact (withT_some (s := s.setCrcacc x) k' h).trans (hk q)

theorem withCh_setCrcacc {k k' : Chunk → Result} (hk : ∀ c, k' c = withCrcacc x (k c)) :
    withCh (s.setCrcacc x) k' = withCrcacc x (withCh s k) := by
  rcases withCh_cases s k with ⟨h, e⟩ | ⟨c, h, e⟩ <;> rw [e]
  · exact withCh_none k' h
  · exact (withCh_some (s := s.setCrcacc x) k' h).trans (hk c)

theorem withDoc_setCrcacc {k k' : List Chunk → Result} (hk : ∀ cs, k' cs = withCrcacc x (k cs)) :
    withDoc (s.setCrcacc x) k' = withCrcacc x (withDoc s k) := by
  rcases withDoc_cases s k with ⟨h, e⟩ | ⟨cs, h, e⟩ <;> rw [e]
  · exact withDoc_none k' h
  · exact (withDoc_some (s := s.setCrcacc x) k' h).trans (hk cs)

theorem ite_setCrcacc {p : Prop} [Decidable p] {r₁ r₂ r₁' r₂' : Result} (h₁ : r₁' = withCrcacc x r₁)
    (h₂ : r₂' = withCrcacc x r₂) : (if p then r₁' else r₂') = withCrcacc x (if p then r₁ else r₂) := by
  rw [h₁, h₂, apply_ite (withCrcacc x)]

theorem emit_setCrcacc (v : List Byte) : emit v (s.setCrcacc x) = withCrcacc x (emit v s) :=
  ite_setCrcacc rfl rfl

theorem constructT_setCrcacc (q : Quad) : constructT q (s.setCrcacc x) = withCrcacc x (constructT q s) :=
  ite_setCrcacc rfl rfl

theorem readProperty_setCrcacc (p : Quad → Bool) :
    readProperty p (s.setCrcacc x) = withCrcacc x (readProperty p s) :=
  withT_setCrcacc fun _ => rfl

/-! ### The commands with more than one check -/

theorem execTcSet4_setCrcacc : execTcSet4 (s.setCrcacc x) = withCrcacc x (execTcSet4 s) :=
  withPacked_setCrcacc constructT_setCrcacc

theorem execTcSets_setCrcacc : execTcSets (s.setCrcacc x) = withCrcacc x (execTcSets s) :=
  withSlice_setCrcacc fun _ => ite_setCrcacc rfl (constructT_setCrcacc _)

theorem execChNew_setCrcacc : execChNew (s.setCrcacc x) = withCrcacc x (execChNew s) :=
  withT_setCrcacc fun _ => withSlice_setCrcacc fun _ => ite_setCrcacc rfl (ite_setCrcacc rfl rfl)

theorem execChParse_setCrcacc : execChParse (s.setCrcacc x) = withCrcacc x (execChParse s) :=
  withSlice_setCrcacc fun bytes => by
    cases parseRecord bytes with
    | error e => rfl
    | ok p => exact ite_setCrcacc rfl rfl

theorem execDocParse_setCrcacc : execDocParse (s.setCrcacc x) = withCrcacc x (execDocParse s) :=
  withSlice_setCrcacc fun bytes => by
    cases docParse bytes with
    | error e => rfl
    | ok cs => exact ite_setCrcacc rfl rfl

theorem execDocGet_setCrcacc : execDocGet (s.setCrcacc x) = withCrcacc x (execDocGet s) :=
  withDoc_setCrcacc fun cs => by
    rw [setCrcacc_a0]
    cases cs[s.a0]? <;> rfl

theorem execDocFind_setCrcacc : execDocFind (s.setCrcacc x) = withCrcacc x (execDocFind s) :=
  withDoc_setCrcacc fun cs => withPacked_setCrcacc fun key => by
    cases findFirst cs key <;> rfl

theorem execDocAppend_setCrcacc : execDocAppend (s.setCrcacc x) = withCrcacc x (execDocAppend s) :=
  withDoc_setCrcacc fun _ => withCh_setCrcacc fun _ => ite_setCrcacc rfl rfl

theorem execDocRemove_setCrcacc : execDocRemove (s.setCrcacc x) = withCrcacc x (execDocRemove s) :=
  withDoc_setCrcacc fun cs => withPacked_setCrcacc fun key => by
    cases removeFirst cs key <;> rfl

end

/-! ### Every command outside the CRC family -/

theorem exec_setCrcacc {i : Instr} (s : State) (x : Word) (hinit : i ≠ .crcInit) (hbyte : ∀ b, i ≠ .crcByte b)
    (hbuf : i ≠ .crcBuf) (hfin : i ≠ .crcFin) (hcheck : i ≠ .crcCheck) (hreset : i ≠ .sysReset) :
    exec i (s.setCrcacc x) = withCrcacc x (exec i s) := by
  cases i with
  | sysNop => rfl
  | sysReset => exact absurd rfl hreset
  | crcInit => exact absurd rfl hinit
  | crcByte b => exact absurd rfl (hbyte b)
  | crcBuf => exact absurd rfl hbuf
  | crcFin => exact absurd rfl hfin
  | crcCheck => exact absurd rfl hcheck
  | tcSet4 => exact execTcSet4_setCrcacc
  | tcSets => exact execTcSets_setCrcacc
  | tcBytes => exact withT_setCrcacc fun _ => rfl
  | tcIsCrit => exact readProperty_setCrcacc _
  | tcIsPub => exact readProperty_setCrcacc _
  | tcIsRsv => exact readProperty_setCrcacc _
  | tcIsSafe => exact readProperty_setCrcacc _
  | tcIsValid => exact readProperty_setCrcacc _
  | tcRender => exact withT_setCrcacc fun _ => emit_setCrcacc _
  | chNew => exact execChNew_setCrcacc
  | chParse => exact execChParse_setCrcacc
  | chEmit => exact withCh_setCrcacc fun _ => emit_setCrcacc _
  | chLen => exact withCh_setCrcacc fun _ => rfl
  | chData => exact withCh_setCrcacc fun _ => emit_setCrcacc _
  | chType => exact withCh_setCrcacc fun _ => rfl
  | chCrc => exact withCh_setCrcacc fun _ => rfl
  | docParse => exact execDocParse_setCrcacc
  | docCount => exact withDoc_setCrcacc fun _ => rfl
  | docGet => exact execDocGet_setCrcacc
  | docFind => exact execDocFind_setCrcacc
  | docAppend => exact execDocAppend_setCrcacc
  | docRemove => exact execDocRemove_setCrcacc
  | docEmit => exact withDoc_setCrcacc fun _ => emit_setCrcacc _

end Sys2Proof.Machine
end

section
/-! PROOFS (statements of 10_state). The four statements about what the commands write. -/

open Sys2Proof Sys2Proof.Machine

/-- Settles O17: CRCACC is written by the ends of the CRC commands and of SYS.RESET alone (`Ends.crcacc_kept`), and the
other commands run alike with any CRCACC (`exec_setCrcacc`). -/
theorem onlyCrcCommandsUseCrcacc : Obligations.OnlyCrcCommandsUseCrcacc := by
  refine ⟨fun i s t h => (exec_ends h).crcacc_kept, ?_⟩
  intro i s t x h hinit hbyte hbuf hfin hcheck hreset
  calc exec i (s.setCrcacc x) = withCrcacc x (exec i s) := exec_setCrcacc s x hinit hbyte hbuf hfin hcheck hreset
    _ = .next (t.setCrcacc x) := by rw [h]; rfl

/-- Settles O43: no end of a command but SYS.RESET's writes A0 or A1, and none the build or the host's side. -/
theorem operandsAndHostSideAreKept : Obligations.OperandsAndHostSideAreKept :=
  fun _ _ _ h => ⟨(exec_ends h).operands_kept, (exec_ends h).host_kept⟩

/-- Settles O44: the ends that write EADDR are the failures of the two parse commands (`Ends.eaddr_kept`), and where
`doc_parse` fails stands the first record that does not parse (`docParse_failsAfter`). -/
theorem eaddrHoldsTheFailingRecord : Obligations.EaddrHoldsTheFailingRecord := by
  refine ⟨fun i s t h => (exec_ends h).eaddr_kept, ?_, ?_, ?_⟩
  · intro s t h hcode
    obtain ⟨hok, href⟩ := recordCode_not_refusal t.code hcode
    obtain ⟨e, -, rfl⟩ := (exec_ends h).failed_chParse hok href
    rfl
  · intro s t h hcode
    obtain ⟨e, off, he, rfl⟩ := (exec_ends h).failed_docParse (by simp [hcode]) (by simp [hcode, Code.isRefusal])
    obtain rfl : e = .badSignature := hcode
    obtain rfl := docParse_badSignature he
    rfl
  · intro s t h hcode
    obtain ⟨hok, href⟩ := recordCode_not_refusal t.code hcode
    obtain ⟨e, off, he, rfl⟩ := (exec_ends h).failed_docParse hok href
    obtain ⟨cs, r, hfails, hbytes, hoff⟩ := docParse_failsAfter he (by rintro rfl; simp at hcode)
    exact ⟨cs, r, hfails.before, hbytes, hfails.nonempty, hfails.refused, congrArg (s.a0 + ·) hoff⟩

/-- Settles O45: each clause is one lemma about the ends of a command (`Ends`); SYS.RESET's end is R37's record. -/
theorem validBitsSetAndCleared : Obligations.ValidBitsSetAndCleared := by
  intro i s t h
  have hends := exec_ends h
  have hreset (hi : i = .sysReset) : t.tv = false ∧ t.cv = false ∧ t.dv = false := by
    subst hi
    obtain rfl := completeOk_next.mp h
    exact ⟨rfl, rfl, rfl⟩
  refine ⟨fun ⟨hi, hok⟩ => hends.tv_set hi hok, ?_, hends.t_kept, fun ⟨hi, hok⟩ => hends.cv_set hi hok, ?_, ?_,
    hends.ch_kept, ?_, ?_, hends.dv_kept⟩
  · rintro (⟨hi, hcode⟩ | hi)
    · exact hends.tv_cleared hi hcode
    · exact (hreset hi).1
  · rintro (⟨rfl, hok, hcode⟩ | ⟨rfl, hcode⟩ | ⟨rfl, hok⟩ | hi)
    · exact hends.cv_cleared_of_chParse hok hcode
    · exact hends.cv_cleared_of_docRemove hcode
    · exact hends.cv_cleared_of_docAppend hok
    · exact (hreset hi).2.1
  · rintro rfl hok cs hd
    exact hends.cv_of_docFind hok hd
  · rintro ⟨rfl, hok⟩
    exact hends.dv_set hok
  · rintro (⟨rfl, hok, hcode⟩ | hi)
    · exact hends.dv_cleared hok hcode
    · exact (hreset hi).2.2

end

section
/-! PROOFS (statements of 20_memory). A canonical memory is determined by its reads, and so is a slice
(spec 20_memory R60, R61, R63). -/

namespace Sys2Proof.Machine

theorem Memory.wfFrom_cons {lo k : Nat} {b : Byte} {m : Memory} :
    Memory.wfFrom lo ((k, b) :: m) = true ↔ lo ≤ k ∧ b ≠ unlistedByte ∧ Memory.wfFrom (k + 1) m = true := by
  simp [Memory.wfFrom, and_assoc]

@[simp] theorem Memory.readByte_head (k : Nat) (b : Byte) (m : Memory) : Memory.readByte ((k, b) :: m) k = b :=
  if_pos rfl

theorem Memory.readByte_tail {k a : Nat} (b : Byte) (m : Memory) (h : k ≠ a) :
    Memory.readByte ((k, b) :: m) a = m.readByte a :=
  if_neg h

/-- A canonical memory is listed only at or above its bound. -/
theorem Memory.le_of_readByte_ne {lo a : Nat} {m : Memory} (hm : Memory.wfFrom lo m = true)
    (h : m.readByte a ≠ unlistedByte) : lo ≤ a := by
  by_contra hlt
  exact h (Memory.readByte_below hm (Nat.not_le.mp hlt))

/-- A canonical memory that reads like one whose least listed address is `k` lists an address at or below `k`. -/
theorem Memory.exists_head_le_of_readByte_eq {lo k : Nat} {b : Byte} {m m' : Memory}
    (hm : Memory.wfFrom lo ((k, b) :: m) = true) (hm' : Memory.wfFrom lo m' = true)
    (h : ∀ a, Memory.readByte ((k, b) :: m) a = m'.readByte a) :
    ∃ k' b' l, m' = (k', b') :: l ∧ k' ≤ k := by
  have hk : m'.readByte k ≠ unlistedByte := by
    rw [← h k, Memory.readByte_head]
    exact (Memory.wfFrom_cons.mp hm).2.1
  cases m' with
  | nil => exact absurd rfl hk
  | cons c l =>
    obtain ⟨-, hb, hl⟩ := Memory.wfFrom_cons.mp hm'
    exact ⟨c.1, c.2, l, rfl, Memory.le_of_readByte_ne (Memory.wfFrom_cons.mpr ⟨le_rfl, hb, hl⟩) hk⟩

/-- Canonical memories that read the same are the same, cell by cell from the least address up. -/
theorem Memory.eq_of_readByte_eq {lo : Nat} {m m' : Memory} (hm : Memory.wfFrom lo m = true)
    (hm' : Memory.wfFrom lo m' = true) (h : ∀ a, m.readByte a = m'.readByte a) : m = m' := by
  induction m generalizing lo m' with
  | nil =>
    cases m' with
    | nil => rfl
    | cons c l =>
      obtain ⟨_, _, _, hnil, -⟩ := Memory.exists_head_le_of_readByte_eq hm' hm fun a => (h a).symm
      cases hnil
  | cons c l ih =>
    obtain ⟨k, b⟩ := c
    obtain ⟨k', b', l', rfl, hle⟩ := Memory.exists_head_le_of_readByte_eq hm hm' h
    obtain ⟨_, _, _, heq, hge⟩ := Memory.exists_head_le_of_readByte_eq hm' hm fun a => (h a).symm
    cases heq
    obtain rfl : k = k' := Nat.le_antisymm hge hle
    obtain rfl : b = b' := by simpa using h k
    obtain ⟨-, -, hl⟩ := Memory.wfFrom_cons.mp hm
    obtain ⟨-, -, hl'⟩ := Memory.wfFrom_cons.mp hm'
    have htail (a : Nat) : Memory.readByte l a = Memory.readByte l' a := by
      by_cases ha : k = a
      · subst ha
        rw [Memory.readByte_below hl k.lt_succ_self, Memory.readByte_below hl' k.lt_succ_self]
      · simpa only [Memory.readByte_tail b _ ha] using h a
    rw [ih hl hl' htail]

/-- Memories that read alike on a slice have the same slice. -/
theorem Memory.readBytes_congr {m m' : Memory} {a n : Nat}
    (h : ∀ j, j < n → m.readByte (a + j) = m'.readByte (a + j)) : m.readBytes a n = m'.readBytes a n := by
  refine List.ext_getElem? fun j => ?_
  rw [Memory.readBytes_getElem?, Memory.readBytes_getElem?]
  split_ifs with hj
  · rw [h j hj]
  · rfl

end Sys2Proof.Machine
end

section
/-! PROOFS (statements of 20_memory). Which ends of a command write a memory (spec 20_memory R60, R65, R71), and the
output commands as the output operation. -/

namespace Sys2Proof.Machine

section
variable {s t : State} {i : Instr}

theorem Ends.imem_kept (h : Ends s i t) : t.imem = s.imem := by
  cases h <;> rfl

theorem Ends.omem_kept (h : Ends s i t) (hi : i ∉ outputCommands) : t.omem = s.omem := by
  cases h with
  | output hout => exact absurd hout hi
  | _ => rfl

theorem Ends.optr_kept (h : Ends s i t) (hi : i ∉ outputCommands) (hreset : i ≠ .sysReset) : t.optr = s.optr := by
  cases h with
  | output hout => exact absurd hout hi
  | reset => exact absurd rfl hreset
  | _ => rfl

/-- A command that fails stores nothing (R283). -/
theorem Ends.output_kept_of_fail (h : Ends s i t) (hok : t.code ≠ .ok) : t.omem = s.omem ∧ t.optr = s.optr := by
  cases h with
  | output => exact absurd rfl hok
  | reset => exact absurd rfl hok
  | _ => exact ⟨rfl, rfl⟩

/-- An output command that has what it needs is the output operation on its bytes (R65). -/
theorem exec_of_outputOf {v : List Byte} (h : outputOf i s = some v) : exec i s = emit v s := by
  cases i with
  | tcRender =>
    obtain ⟨q, hq, rfl⟩ := Option.map_eq_some_iff.mp h
    exact withT_some _ hq
  | chEmit =>
    obtain ⟨c, hc, rfl⟩ := Option.map_eq_some_iff.mp h
    exact withCh_some _ hc
  | chData =>
    obtain ⟨c, hc, rfl⟩ := Option.map_eq_some_iff.mp h
    exact withCh_some _ hc
  | docEmit =>
    obtain ⟨cs, hcs, rfl⟩ := Option.map_eq_some_iff.mp h
    exact withDoc_some _ hcs
  | _ => cases h

end

end Sys2Proof.Machine
end

section
/-! PROOFS (statements of 20_memory). What a command does is decided without OMEM and without IMEM outside the slice
(R60, R64): with other memories that agree on the slice its result is the same, and it stores the same bytes at OPTR. -/

namespace Sys2Proof.Machine

/-- The same engine with other memories. -/
def State.withMemories (s : State) (im om : Memory) : State := (s.setImem im).setOmem om

/-- A result with both memories replaced in its next state. -/
def withMemories (im om : Memory) : Result → Result
  | .next t => .next (t.withMemories im om)
  | r => r

/-- In `s` with any memories that agree with it on the slice, `k` ends as it does in `s`, with the memories given and
bytes `bs` stored at OPTR, none if `bs` is empty. -/
def DecidedBySlice (s : State) (k : State → Result) : Prop :=
  ∃ bs, ∀ im om : Memory, im.readBytes s.a0 s.a1 = s.imem.readBytes s.a0 s.a1 →
    k (s.withMemories im om) = withMemories im (om.writeBytes s.optr bs) (k s)

section
variable {s : State}

/-! ### The shared operations -/

/-- Writes that neither read nor write a memory. -/
theorem decided_of_commutes {k : State → Result}
    (h : ∀ im om, k (s.withMemories im om) = withMemories im om (k s)) : DecidedBySlice s k :=
  ⟨[], fun im om _ => h im om⟩

theorem decided_raise (c : Code) : DecidedBySlice s (raise c) := decided_of_commutes fun _ _ => rfl

/-- Two continuations that agree in `s` with any memories. -/
theorem DecidedBySlice.congr {k k' : State → Result} (h : DecidedBySlice s k)
    (hk : ∀ im om, k' (s.withMemories im om) = k (s.withMemories im om)) : DecidedBySlice s k' := by
  obtain ⟨bs, hbs⟩ := h
  have hs : k' s = k s := hk s.imem s.omem
  exact ⟨bs, fun im om him => by rw [hk, hs, hbs im om him]⟩

/-- A test that reads no memory goes the same way with other memories. -/
theorem decided_ite {p : State → Prop} [DecidablePred p] {k₁ k₂ : State → Result}
    (hp : ∀ im om, p (s.withMemories im om) ↔ p s) (h₁ : DecidedBySlice s k₁) (h₂ : DecidedBySlice s k₂) :
    DecidedBySlice s fun s => if p s then k₁ s else k₂ s := by
  by_cases h : p s
  · exact h₁.congr fun im om => if_pos ((hp im om).mpr h)
  · exact h₂.congr fun im om => if_neg (mt (hp im om).mp h)

/-- The one operation that writes a memory stores bytes it was given. -/
theorem decided_emit (v : List Byte) : DecidedBySlice s (emit v) :=
  decided_ite (p := fun s => s.optr + v.length ≤ s.cfg.omemSize) (fun _ _ => Iff.rfl) ⟨v, fun _ _ _ => rfl⟩
    (decided_raise .storeFull)

/-- The one operation that reads a memory reads the slice. -/
theorem decided_withSlice {k : List Byte → State → Result} (hk : ∀ bytes, DecidedBySlice s (k bytes)) :
    DecidedBySlice s fun s => withSlice s fun bytes => k bytes s := by
  obtain ⟨bs, hbs⟩ := hk s.slice
  have hin : DecidedBySlice s fun s => k s.slice s :=
    ⟨bs, fun im om him => (congrArg (k · (s.withMemories im om)) him).trans (hbs im om him)⟩
  exact decided_ite (fun _ _ => Iff.rfl) hin (decided_raise .badOperand)

theorem decided_withWord {k : Word → State → Result} (hk : ∀ w, DecidedBySlice s (k w)) :
    DecidedBySlice s fun s => withWord s fun w => k w s :=
  decided_ite (fun _ _ => Iff.rfl) ((hk (BitVec.ofNat 32 s.a0)).congr fun _ _ => rfl) (decided_raise .badOperand)

theorem decided_withPacked {k : Quad → State → Result} (hk : ∀ q, DecidedBySlice s (k q)) :
    DecidedBySlice s fun s => withPacked s fun q => k q s :=
  decided_withWord fun w => hk (be32 w)

theorem decided_withT {k : Quad → State → Result} (hk : ∀ q, DecidedBySlice s (k q)) :
    DecidedBySlice s fun s => withT s fun q => k q s := by
  cases h : s.t with
  | none => exact (decided_raise .noValue).congr fun _ _ => withT_none _ h
  | some q => exact (hk q).congr fun _ _ => withT_some _ h

theorem decided_withCh {k : Chunk → State → Result} (hk : ∀ c, DecidedBySlice s (k c)) :
    DecidedBySlice s fun s => withCh s fun c => k c s := by
  cases h : s.ch with
  | none => exact (decided_raise .noValue).congr fun _ _ => withCh_none _ h
  | some c => exact (hk c).congr fun _ _ => withCh_some _ h

theorem decided_withDoc {k : List Chunk → State → Result} (hk : ∀ cs, DecidedBySlice s (k cs)) :
    DecidedBySlice s fun s => withDoc s fun cs => k cs s := by
  cases h : s.doc with
  | none => exact (decided_raise .noValue).congr fun _ _ => withDoc_none _ h
  | some cs => exact (hk cs).congr fun _ _ => withDoc_some _ h

theorem decided_constructT (q : Quad) : DecidedBySlice s (constructT q) :=
  decided_ite (fun _ _ => Iff.rfl) (decided_of_commutes fun _ _ => rfl) (decided_of_commutes fun _ _ => rfl)

theorem decided_readProperty (p : Quad → Bool) : DecidedBySlice s (readProperty p) :=
  decided_withT fun _ => decided_of_commutes fun _ _ => rfl

/-! ### The commands with more than one check -/

theorem decided_execCrcBuf : DecidedBySlice s execCrcBuf :=
  decided_withSlice fun _ => decided_of_commutes fun _ _ => rfl

theorem decided_execCrcCheck : DecidedBySlice s execCrcCheck :=
  decided_withWord fun _ =>
    decided_ite (fun _ _ => Iff.rfl) (decided_of_commutes fun _ _ => rfl) (decided_raise .crcMismatch)

theorem decided_execTcSets : DecidedBySlice s execTcSets :=
  decided_withSlice fun _ =>
    decided_ite (fun _ _ => Iff.rfl) (decided_of_commutes fun _ _ => rfl) (decided_constructT _)

theorem decided_execChNew : DecidedBySlice s execChNew :=
  decided_withT fun _ => decided_withSlice fun _ =>
    decided_ite (fun _ _ => Iff.rfl) (decided_raise .badOperand)
      (decided_ite (fun _ _ => Iff.rfl) (decided_raise .storeFull) (decided_of_commutes fun _ _ => rfl))

theorem decided_execChParse : DecidedBySlice s execChParse :=
  decided_withSlice fun bytes => by
    cases parseRecord bytes with
    | error e => exact decided_of_commutes fun _ _ => rfl
    | ok p =>
      exact decided_ite (fun _ _ => Iff.rfl) (decided_raise .storeFull) (decided_of_commutes fun _ _ => rfl)

theorem decided_execDocParse : DecidedBySlice s execDocParse :=
  decided_withSlice fun bytes => by
    cases docParse bytes with
    | error e => exact decided_of_commutes fun _ _ => rfl
    | ok cs =>
      exact decided_ite (fun _ _ => Iff.rfl) (decided_raise .storeFull) (decided_of_commutes fun _ _ => rfl)

theorem decided_execDocGet : DecidedBySlice s execDocGet :=
  decided_withDoc fun cs => decided_of_commutes fun im om => by
    rw [show (s.withMemories im om).a0 = s.a0 from rfl]
    cases cs[s.a0]? <;> rfl

theorem decided_execDocFind : DecidedBySlice s execDocFind :=
  decided_withDoc fun cs => decided_withPacked fun key => by
    cases findFirst cs key <;> exact decided_of_commutes fun _ _ => rfl

theorem decided_execDocAppend : DecidedBySlice s execDocAppend :=
  decided_withDoc fun _ => decided_withCh fun _ =>
    decided_ite (fun _ _ => Iff.rfl) (decided_raise .storeFull) (decided_of_commutes fun _ _ => rfl)

theorem decided_execDocRemove : DecidedBySlice s execDocRemove :=
  decided_withDoc fun cs => decided_withPacked fun key => by
    cases removeFirst cs key <;> exact decided_of_commutes fun _ _ => rfl

end

/-! ### Every command -/

theorem decided_exec (i : Instr) (s : State) : DecidedBySlice s (exec i) := by
  cases i with
  | sysNop => exact decided_of_commutes fun _ _ => rfl
  | sysReset => exact decided_of_commutes fun _ _ => rfl
  | crcInit => exact decided_of_commutes fun _ _ => rfl
  | crcByte b => exact decided_of_commutes fun _ _ => rfl
  | crcBuf => exact decided_execCrcBuf
  | crcFin => exact decided_of_commutes fun _ _ => rfl
  | crcCheck => exact decided_execCrcCheck
  | tcSet4 => exact decided_withPacked decided_constructT
  | tcSets => exact decided_execTcSets
  | tcBytes => exact decided_withT fun _ => decided_of_commutes fun _ _ => rfl
  | tcIsCrit => exact decided_readProperty _
  | tcIsPub => exact decided_readProperty _
  | tcIsRsv => exact decided_readProperty _
  | tcIsSafe => exact decided_readProperty _
  | tcIsValid => exact decided_readProperty _
  | tcRender => exact decided_withT fun _ => decided_emit _
  | chNew => exact decided_execChNew
  | chParse => exact decided_execChParse
  | chEmit => exact decided_withCh fun _ => decided_emit _
  | chLen => exact decided_withCh fun _ => decided_of_commutes fun _ _ => rfl
  | chData => exact decided_withCh fun _ => decided_emit _
  | chType => exact decided_withCh fun _ => decided_of_commutes fun _ _ => rfl
  | chCrc => exact decided_withCh fun _ => decided_of_commutes fun _ _ => rfl
  | docParse => exact decided_execDocParse
  | docCount => exact decided_withDoc fun _ => decided_of_commutes fun _ _ => rfl
  | docGet => exact decided_execDocGet
  | docFind => exact decided_execDocFind
  | docAppend => exact decided_execDocAppend
  | docRemove => exact decided_execDocRemove
  | docEmit => exact decided_withDoc fun _ => decided_emit _

/-- A command that goes on stored some bytes at OPTR, and goes on alike, storing the same, with any memories that agree
on the slice. -/
theorem exec_withMemories {i : Instr} {s t : State} (h : exec i s = .next t) :
    ∃ bs, t.omem = s.omem.writeBytes s.optr bs ∧
      ∀ im om : Memory, im.readBytes s.a0 s.a1 = s.imem.readBytes s.a0 s.a1 →
        exec i (s.withMemories im om) = .next (t.withMemories im (om.writeBytes s.optr bs)) := by
  obtain ⟨bs, hbs⟩ := decided_exec i s
  simp only [h, withMemories] at hbs
  have hself : exec i s = .next (t.withMemories s.imem (s.omem.writeBytes s.optr bs)) := hbs s.imem s.omem rfl
  rw [h] at hself
  exact ⟨bs, congrArg State.omem (Host.Outcome.next.inj hself), hbs⟩

end Sys2Proof.Machine
end

section
open Sys2Proof Sys2Proof.Machine

/-- Settles O53: canonical memories are compared cell by cell from the least address up (`Memory.eq_of_readByte_eq`);
writing the bytes to an empty memory gives one with any content. -/
theorem memoriesAreTheirReads : Obligations.MemoriesAreTheirReads := by
  refine ⟨fun m m' => Memory.eq_of_readByte_eq, fun bytes => ⟨Memory.writeBytes [] 0 bytes, ?_, ?_, fun j h => ?_⟩⟩
  · exact Memory.writeBytes_wf 0 bytes rfl
  · exact Memory.writeBytes_within rfl (by simp)
  · simpa using Memory.readByte_writeBytes_inside (m := []) (a := 0) rfl h

/-- Settles O24: OMEM and OPTR are written by the ends of the output commands alone, and OPTR by SYS.RESET's
(`Ends.omem_kept`, `Ends.optr_kept`), all of them OK completions. -/
theorem onlyOutputCommandsWriteMemory : Obligations.OnlyOutputCommandsWriteMemory := by
  intro i s t h
  have hends := exec_ends h
  exact ⟨hends.imem_kept, fun hi => ⟨hends.omem_kept hi, hends.optr_kept hi⟩, hends.output_kept_of_fail⟩

/-- Settles O22: each of the four is the output operation on its bytes (`exec_of_outputOf`), and what that wrote reads
back by the laws of `Memory.writeBytes`. -/
theorem outputCommandsStoreTheirBytes : Obligations.OutputCommandsStoreTheirBytes := by
  intro i s v hv hwf
  rw [exec_of_outputOf hv]
  rcases emit_cases v s with ⟨hfull, e⟩ | ⟨hfit, e⟩ <;> rw [e]
  · exact ⟨fun hfit => absurd hfull (Nat.not_lt.mpr hfit), fun _ => rfl⟩
  · refine ⟨fun _ => ⟨_, rfl, rfl, ?_, ?_⟩, fun hfull => absurd hfull (Nat.not_lt.mpr hfit)⟩
    · exact fun j h => Memory.readByte_writeBytes_inside hwf h
    · exact fun a ha => Memory.readByte_writeBytes_outside hwf ha

/-- Settles O25: a command's result and the bytes it stores are decided without the memories outside the slice
(`exec_withMemories`), and it leaves IMEM (`Ends.imem_kept`). -/
theorem engineReadsOnlyItsSlice : Obligations.EngineReadsOnlyItsSlice := by
  refine ⟨fun i s t m h => ?_, fun i s t m h hm => ?_⟩
  · obtain ⟨bs, -, hbs⟩ := exec_withMemories h
    refine ⟨m.writeBytes s.optr bs, (hbs s.imem m rfl).trans ?_⟩
    rw [← (exec_ends h).imem_kept]
    rfl
  · obtain ⟨bs, homem, hbs⟩ := exec_withMemories h
    have hrun := hbs m s.omem (Memory.readBytes_congr hm)
    rw [← homem] at hrun
    exact hrun

end

section
/-! PROOFS (statements of 30_encoding). The decoder read off the fields of the word (spec 30_encoding R99 to R103): the
opcode map as a relation, which words are legal and for which command, and the encoder as its inverse. -/

namespace Sys2Proof

/-! ### The fields of a word -/

/-- A 32-bit value is the sum of its three fields (R99). -/
theorem eq_sum_of_fields {w : Nat} (hw : w < 2 ^ 32) :
    w = bitField w 31 24 * 2 ^ 24 + bitField w 23 8 * 2 ^ 8 + bitField w 7 0 := by
  simp only [bitField]
  omega

/-- The imm8 field is a byte: none of it is lost in the map's argument. -/
theorem ofNat_bitField_7_0 {w : Nat} {b : Byte} : BitVec.ofNat 8 (bitField w 7 0) = b ↔ bitField w 7 0 = b.toNat := by
  have hbyte : bitField w 7 0 < 2 ^ 8 := Nat.mod_lt _ (by decide)
  rw [BitVec.toNat_eq, BitVec.toNat_ofNat, Nat.mod_eq_of_lt hbyte]

/-- Only CRC.BYTE has an immediate (R99). -/
theorem Instr.imm_eq_zero {i : Instr} (h : i.opcode ≠ 0x11) : i.imm = 0 := by
  cases i with
  | crcByte b => exact absurd rfl h
  | _ => rfl

/-- The fields of every command's word, for all 30 commands at once. -/
theorem encode_fields (i : Instr) : Laws.WordFields.Statement i :=
  match i with
  | .sysNop => Laws.WordFields.sysNop
  | .sysReset => Laws.WordFields.sysReset
  | .crcInit => Laws.WordFields.crcInit
  | .crcByte imm8 => Laws.WordFields.crcByte imm8
  | .crcBuf => Laws.WordFields.crcBuf
  | .crcFin => Laws.WordFields.crcFin
  | .crcCheck => Laws.WordFields.crcCheck
  | .tcSet4 => Laws.WordFields.tcSet4
  | .tcSets => Laws.WordFields.tcSets
  | .tcBytes => Laws.WordFields.tcBytes
  | .tcIsCrit => Laws.WordFields.tcIsCrit
  | .tcIsPub => Laws.WordFields.tcIsPub
  | .tcIsRsv => Laws.WordFields.tcIsRsv
  | .tcIsSafe => Laws.WordFields.tcIsSafe
  | .tcIsValid => Laws.WordFields.tcIsValid
  | .tcRender => Laws.WordFields.tcRender
  | .chNew => Laws.WordFields.chNew
  | .chParse => Laws.WordFields.chParse
  | .chEmit => Laws.WordFields.chEmit
  | .chLen => Laws.WordFields.chLen
  | .chData => Laws.WordFields.chData
  | .chType => Laws.WordFields.chType
  | .chCrc => Laws.WordFields.chCrc
  | .docParse => Laws.WordFields.docParse
  | .docCount => Laws.WordFields.docCount
  | .docGet => Laws.WordFields.docGet
  | .docFind => Laws.WordFields.docFind
  | .docAppend => Laws.WordFields.docAppend
  | .docRemove => Laws.WordFields.docRemove
  | .docEmit => Laws.WordFields.docEmit

/-! ### The opcode map -/

/-- The 30 opcodes of R102. -/
def opcodes : List Nat :=
  [0x00, 0x01, 0x10, 0x11, 0x12, 0x13, 0x14, 0x20, 0x21, 0x22, 0x23, 0x24, 0x25, 0x26, 0x27, 0x28,
   0x30, 0x31, 0x32, 0x33, 0x34, 0x35, 0x36, 0x40, 0x41, 0x42, 0x43, 0x44, 0x45, 0x46]

theorem Instr.opcode_mem (i : Instr) : i.opcode ∈ opcodes := by
  cases i <;> simp [opcodes, Instr.opcode]

/-- The map read from the left and `Instr.opcode` are the same map; the immediate counts for CRC.BYTE alone. -/
theorem commandOf_eq_some {op : Nat} {imm : Byte} {i : Instr} :
    commandOf op imm = some i ↔ op = i.opcode ∧ (op = 0x11 → imm = i.imm) := by
  constructor
  · intro h
    unfold commandOf at h
    split at h <;> cases h <;> simp [Instr.opcode, Instr.imm]
  · rintro ⟨rfl, himm⟩
    cases i with
    | crcByte b => rw [himm rfl]; rfl
    | _ => rfl

theorem exists_commandOf {op : Nat} {imm : Byte} : (∃ i, commandOf op imm = some i) ↔ op ∈ opcodes := by
  constructor
  · rintro ⟨i, h⟩
    exact (commandOf_eq_some.mp h).1 ▸ i.opcode_mem
  · intro h
    fin_cases h <;> exact ⟨_, rfl⟩

/-! ### The decoder -/

/-- A word is legal for a command exactly when it passes the four tests of R103 and the map gives the command. -/
theorem decode_eq_ok {w : Nat} {i : Instr} :
    decode w = .ok i ↔
      w < 2 ^ 32 ∧ commandOf (bitField w 31 24) (BitVec.ofNat 8 (bitField w 7 0)) = some i ∧
        bitField w 23 8 = 0 ∧ (bitField w 7 0 = 0 ∨ bitField w 31 24 = 0x11) := by
  by_cases hw : 2 ^ 32 ≤ w
  · rw [decode, if_pos hw]
    exact ⟨nofun, fun ⟨hlt, _⟩ => absurd hw (Nat.not_le.mpr hlt)⟩
  · rw [decode, if_neg hw]
    cases commandOf (bitField w 31 24) (BitVec.ofNat 8 (bitField w 7 0)) with
    | none => simp
    | some j =>
      simp only
      split_ifs with hreserved hstray
      · simp [hreserved]
      · simp [hstray]
      · simp only [not_and_or, not_not] at hreserved hstray
        rw [Except.ok.injEq, Option.some.injEq]
        exact ⟨fun hij => ⟨Nat.not_le.mp hw, hij, hreserved, hstray⟩, fun ⟨_, hij, _⟩ => hij⟩

/-- The same by fields: the word decodes to the command whose opcode and immediate it holds, with nothing else set. -/
theorem decode_eq_ok_iff_fields {w : Nat} {i : Instr} :
    decode w = .ok i ↔
      w < 2 ^ 32 ∧ bitField w 31 24 = i.opcode ∧ bitField w 23 8 = 0 ∧ bitField w 7 0 = i.imm.toNat := by
  rw [decode_eq_ok, commandOf_eq_some, and_assoc]
  refine and_congr_right fun _ => and_congr_right fun hop => ?_
  rw [hop]
  by_cases hbyte : i.opcode = 0x11
  · simp [hbyte, ofNat_bitField_7_0, and_comm]
  · simp [hbyte, Instr.imm_eq_zero hbyte]

/-- A word that decodes to a command is that command's word, and the other way round (R99 to R102). -/
theorem decode_eq_ok_iff_encode {w : Nat} {i : Instr} : decode w = .ok i ↔ w = (encode i).toNat := by
  obtain ⟨hop, hreserved, himm⟩ := encode_fields i
  rw [decode_eq_ok_iff_fields]
  constructor
  · rintro ⟨hw, hop', hreserved', himm'⟩
    rw [eq_sum_of_fields hw, eq_sum_of_fields (encode i).isLt, hop, hop', hreserved, hreserved', himm, himm']
  · rintro rfl
    exact ⟨(encode i).isLt, hop, hreserved, himm⟩

@[simp] theorem decode_encode (i : Instr) : decode (encode i).toNat = .ok i := decode_eq_ok_iff_encode.mpr rfl

/-- A word is illegal exactly when one of the four tests of R103 fails. -/
theorem exists_decode_error {w : Nat} :
    (∃ e, decode w = .error e) ↔
      bitField w 31 24 ∉ opcodes ∨ bitField w 23 8 ≠ 0 ∨ (bitField w 7 0 ≠ 0 ∧ bitField w 31 24 ≠ 0x11) ∨
        2 ^ 32 ≤ w := by
  have hlegal : (∃ i, decode w = .ok i) ↔
      w < 2 ^ 32 ∧ bitField w 31 24 ∈ opcodes ∧ bitField w 23 8 = 0 ∧
        (bitField w 7 0 = 0 ∨ bitField w 31 24 = 0x11) := by
    simp only [decode_eq_ok, exists_and_left, exists_and_right, exists_commandOf]
  have hillegal : (∃ e, decode w = .error e) ↔ ¬ ∃ i, decode w = .ok i := by
    cases decode w <;> simp
  rw [hillegal, hlegal]
  simp only [not_and_or, not_or, Nat.not_lt]
  tauto

end Sys2Proof
end

section
/-! PROOFS (statements of 30_encoding). What a host write of A0, A1 or CMD does in one step (spec 44_system R272, R275),
and the run of CRC32 a, n (R108) from those rules. -/

namespace Sys2Proof.Machine

section
variable {s : State} {rest : List HostOp}

/-- A step whose operation writes an AW-bit value writes the register it names (R272). -/
theorem step_of_write {n v : Nat} (hp : s.pending = .wr n v :: rest) (hv : fitsAw s.cfg v) :
    step s = writeRegister n v (s.setPending rest) := by
  rw [step_of_pending hp]
  exact if_pos hv

theorem step_of_write_a0 {v : Nat} (hp : s.pending = .wr 2 v :: rest) (hv : fitsAw s.cfg v) :
    step s = .next ((s.setPending rest).setA0 v) := step_of_write hp hv

theorem step_of_write_a1 {v : Nat} (hp : s.pending = .wr 3 v :: rest) (hv : fitsAw s.cfg v) :
    step s = .next ((s.setPending rest).setA1 v) := step_of_write hp hv

/-- A step that issues an illegal word (R103, R275). -/
theorem step_of_illegal {w : Nat} {e : DecodeError} (hp : s.pending = .wr 0 w :: rest) (hw : fitsAw s.cfg w)
    (he : decode w = .error e) : step s = raise .badCommand (s.setPending rest) := by
  rw [step_of_write hp hw]
  simp [writeRegister, issue, he]

/-- A step that issues a legal word runs its command (R275). -/
theorem step_of_legal {w : Nat} {i : Instr} (hp : s.pending = .wr 0 w :: rest) (hw : fitsAw s.cfg w)
    (hi : decode w = .ok i) : step s = exec i (s.setPending rest) := by
  rw [step_of_write hp hw]
  simp [writeRegister, issue, hi]

/-- The pseudo-instruction `<MNEMONIC>` runs its command in one step (R107, R108). -/
theorem step_of_command {i : Instr} (hp : s.pending = Pseudo.command i :: rest) (hwf : s.cfg.wf = true) :
    step s = exec i (s.setPending rest) :=
  step_of_legal hp (fitsAw_word _ hwf) (decode_encode i)

end

/-- A run one step longer, by its first step. -/
theorem run_of_step {s t : State} {k : Nat} {r : Result} (h : step s = .next t) (hrun : core.run k t = r) :
    core.run (k + 1) s = r := by
  have hcore : core.step s = .next t := h
  simp only [Host.Core.run, hcore]
  exact hrun

/-- CRC.BUF of a slice in bounds (R139). -/
theorem exec_crcBuf_of_in {s : State} (hin : s.a0 + s.a1 ≤ s.cfg.imemSize) :
    exec .crcBuf s = .next { s with code := .ok, crcacc := crcUpdate s.crcacc (s.imem.readBytes s.a0 s.a1) } :=
  withSlice_of_in (fun bytes => completeOk (s.setCrcacc (crcUpdate s.crcacc bytes))) hin

/-- SLICE a, n puts the slice in A0 and A1 and leaves the rest of the host's operations to do (R108). -/
theorem run_slice {s : State} {a n k : Nat} {rest : List HostOp} {r : Result}
    (hp : s.pending = Pseudo.slice a n ++ rest) (ha : fitsAw s.cfg a) (hn : fitsAw s.cfg n)
    (hrun : core.run k ({ s with pending := rest, a0 := a, a1 := n } : State) = r) : core.run (k + 2) s = r :=
  run_of_step (step_of_write_a0 hp ha) (run_of_step (step_of_write_a1 rfl hn) hrun)

section
variable {s : State} {rest : List HostOp}

theorem step_crcInit (hp : s.pending = Pseudo.command .crcInit :: rest) (hwf : s.cfg.wf = true) :
    step s = .next { s with pending := rest, code := .ok, crcacc := crcOnes } :=
  step_of_command hp hwf

theorem step_crcBuf (hp : s.pending = Pseudo.command .crcBuf :: rest) (hwf : s.cfg.wf = true)
    (hin : s.a0 + s.a1 ≤ s.cfg.imemSize) :
    step s = .next { s with
      pending := rest, code := .ok, crcacc := crcUpdate s.crcacc (s.imem.readBytes s.a0 s.a1) } :=
  (step_of_command hp hwf).trans (exec_crcBuf_of_in (s := s.setPending rest) hin)

theorem step_crcFin (hp : s.pending = Pseudo.command .crcFin :: rest) (hwf : s.cfg.wf = true) :
    step s = .next { s with pending := rest, code := .ok, res := (s.crcacc ^^^ crcOnes).toNat } :=
  step_of_command hp hwf

end

/-- The run of CRC32 a, n: the slice stays in A0 and A1, the remainder in CRCACC, the checksum in RES. -/
theorem run_checksum {s : State} {a n : Nat} (hwf : s.cfg.wf = true) (hin : a + n ≤ s.cfg.imemSize)
    (hp : s.pending = Pseudo.checksum a n) :
    core.run 5 s = .next { s with
      pending := [], code := .ok, a0 := a, a1 := n, res := (crc32 (s.imem.readBytes a n)).toNat,
      crcacc := crcUpdate crcOnes (s.imem.readBytes a n) } := by
  have ha : fitsAw s.cfg a := fitsAw_of_le_imemSize (by omega) hwf
  have hn : fitsAw s.cfg n := fitsAw_of_le_imemSize (by omega) hwf
  refine run_slice hp ha hn ?_
  refine run_of_step (step_crcInit rfl hwf) ?_
  refine run_of_step (step_crcBuf rfl hwf hin) ?_
  refine run_of_step (step_crcFin rfl hwf) ?_
  rfl

end Sys2Proof.Machine
end

section
open Sys2Proof Sys2Proof.Machine

/-- Settles O2: both sides say the same of the fields of the word (`decode_eq_ok_iff_fields`, `encode_fields`), and the
fields are the word. -/
theorem decodeAndEncodeAgree : Obligations.DecodeAndEncodeAgree :=
  fun _ _ => decode_eq_ok_iff_encode

/-- Settles O3: the legal words are those that pass all four tests of R103 (`exists_decode_error`), and the step that
issues any other raises BadCommand. -/
theorem illegalWordsCompleteBadCommand : Obligations.IllegalWordsCompleteBadCommand :=
  ⟨fun _ => exists_decode_error, fun _ _ _ _ hp hw he => step_of_illegal hp hw he⟩

/-- Settles O16: the five operations run in turn (`run_checksum`). -/
theorem checksumPseudoInstruction : Obligations.ChecksumPseudoInstruction := by
  intro s a n hwf hin hp
  exact ⟨_, run_checksum hwf hin hp, rfl, rfl, rfl⟩

/-- Settles O1: each literal is the encoder's word (R100, R101), and the decoder reads that word back. -/
theorem wordsOfEveryFamilyDecode : Obligations.WordsOfEveryFamilyDecode :=
  ⟨decode_encode .sysNop, decode_encode .sysReset, decode_encode (.crcByte 0x52), decode_encode .crcCheck,
    decode_encode .tcSet4, decode_encode .tcRender, decode_encode .chNew, decode_encode .chCrc,
    decode_encode .docParse, decode_encode .docEmit⟩

end

section
/-! PROOFS (statements of 40_crc). One inner step of R131 is linear over XOR and loses no bit: the bit shifted out is
bit 31 of the result, since the polynomial constant has bit 31 set. The laws of the checksum (R134) and its table form
(R133) follow over the bits of a byte and the bytes of a sequence. -/

namespace Sys2Proof

/-! ### The inner step -/

/-- What the inner step adds for the bit shifted out. -/
def crcFeedback (bit : Bool) : Word := if bit then crcPoly else 0#32

theorem crcFeedback_xor (a b : Bool) : crcFeedback (a ^^ b) = crcFeedback a ^^^ crcFeedback b := by
  cases a <;> cases b <;> rfl

@[simp] theorem getLsbD_31_crcFeedback (bit : Bool) : (crcFeedback bit).getLsbD 31 = bit := by
  cases bit <;> rfl

/-- The inner step without its case split. -/
theorem crcShift_eq (c : Word) : crcShift c = (c >>> 1) ^^^ crcFeedback (c.getLsbD 0) := by
  cases h : c.getLsbD 0 with
  | false => simp only [crcShift, h, crcFeedback, Bool.false_eq_true, if_false, BitVec.xor_zero]
  | true => simp only [crcShift, h, crcFeedback, if_true]

theorem crcShift_of_even {c : Word} (h : c.getLsbD 0 = false) : crcShift c = c >>> 1 := by
  rw [crcShift_eq, h]
  exact BitVec.xor_zero

/-- The inner step is linear. -/
theorem crcShift_xor (c d : Word) : crcShift (c ^^^ d) = crcShift c ^^^ crcShift d := by
  simp only [crcShift_eq, BitVec.getLsbD_xor, crcFeedback_xor, BitVec.ushiftRight_xor_distrib]
  ac_rfl

/-- The bit shifted out is kept as bit 31. -/
theorem getLsbD_31_crcShift (c : Word) : (crcShift c).getLsbD 31 = c.getLsbD 0 := by
  simp [crcShift_eq, -BitVec.getLsbD_eq_getElem]

/-- Bit 31 of the result gives back the bit shifted out, and with it the rest. -/
theorem crcShift_injective : Function.Injective crcShift := by
  intro c d h
  have hbit : c.getLsbD 0 = d.getLsbD 0 := by rw [← getLsbD_31_crcShift, h, getLsbD_31_crcShift]
  have hrest : c >>> 1 = d >>> 1 := by rwa [crcShift_eq, crcShift_eq, hbit, BitVec.xor_left_inj] at h
  refine BitVec.eq_of_getLsbD_eq fun i _ => ?_
  cases i with
  | zero => exact hbit
  | succ i => simpa [Nat.add_comm] using congrArg (·.getLsbD i) hrest

/-! ### Several inner steps -/

theorem crcShifts_xor (n : Nat) (c d : Word) : crcShifts n (c ^^^ d) = crcShifts n c ^^^ crcShifts n d := by
  induction n generalizing c d with
  | zero => rfl
  | succ n ih => simp only [crcShifts, crcShift_xor, ih]

theorem crcShifts_injective (n : Nat) : Function.Injective (crcShifts n) := by
  induction n with
  | zero => exact Function.injective_id
  | succ n ih => exact ih.comp crcShift_injective

/-- Where the low `n` bits are zero, `n` inner steps only shift. -/
theorem crcShifts_of_low_zero {n : Nat} {c : Word} (h : ∀ i < n, c.getLsbD i = false) : crcShifts n c = c >>> n := by
  induction n generalizing c with
  | zero => rfl
  | succ n ih =>
    rw [crcShifts, crcShift_of_even (h 0 n.succ_pos), ih fun i hi => ?_, ← BitVec.shiftRight_add, Nat.add_comm]
    simpa [Nat.add_comm] using h (i + 1) (Nat.succ_lt_succ hi)

/-- Eight inner steps work on the low byte alone and shift the rest. -/
theorem crcShifts_eight (c : Word) :
    crcShifts 8 c = crcShifts 8 ((c.extractLsb' 0 8).setWidth 32) ^^^ (c >>> 8) := by
  have hhigh : ∀ i < 8, ((c.extractLsb' 0 8).setWidth 32 ^^^ c).getLsbD i = false := fun i hi => by
    simp [hi, show i < 32 by omega]
  have hlow : (c.extractLsb' 0 8).setWidth 32 >>> 8 = 0#32 := by ext; simp
  calc crcShifts 8 c
      = crcShifts 8 ((c.extractLsb' 0 8).setWidth 32 ^^^ ((c.extractLsb' 0 8).setWidth 32 ^^^ c)) := by
        rw [← BitVec.xor_assoc, BitVec.xor_self, BitVec.zero_xor]
    _ = crcShifts 8 ((c.extractLsb' 0 8).setWidth 32) ^^^ (c >>> 8) := by
        rw [crcShifts_xor, crcShifts_of_low_zero hhigh, BitVec.ushiftRight_xor_distrib, hlow, BitVec.zero_xor]

/-! ### The byte step -/

theorem crcStep_injective_remainder (b : Byte) : Function.Injective fun c : Word => crcStep c b :=
  fun _ _ h => (BitVec.xor_left_inj _).mp (crcShifts_injective 8 h)

/-- An injection of a finite type into itself is a bijection. -/
theorem crcStep_bijective_remainder (b : Byte) : Function.Bijective fun c : Word => crcStep c b :=
  Finite.injective_iff_bijective.mp (crcStep_injective_remainder b)

theorem crcStep_injective_byte (c : Word) : Function.Injective (crcStep c) := by
  intro x y h
  have hxy : x.setWidth 32 = y.setWidth 32 := (BitVec.xor_right_inj _).mp (crcShifts_injective 8 h)
  simpa using congrArg (BitVec.setWidth 8) hxy

theorem crcStep_zero (b : Byte) : crcStep 0 b = crcShifts 8 (b.setWidth 32) :=
  congrArg (crcShifts 8) BitVec.zero_xor

/-- A byte step is that of the low byte of `c XOR b` from 0, XOR what stands above it in `c` (R133). -/
theorem crcStep_eq_low_xor_high (c : Word) (b : Byte) :
    crcStep c b = crcStep 0 ((c ^^^ b.setWidth 32).extractLsb' 0 8) ^^^ (c >>> 8) := by
  have hbyte : b.setWidth 32 >>> 8 = 0#32 := by ext; simp
  rw [crcStep, crcShifts_eight, BitVec.ushiftRight_xor_distrib, hbyte, BitVec.xor_zero, crcStep_zero]

/-! ### Sequences -/

theorem crcUpdate_append (c : Word) (s t : List Byte) : crcUpdate c (s ++ t) = crcUpdate (crcUpdate c s) t := by
  induction s generalizing c with
  | nil => rfl
  | cons b s ih => exact ih (crcStep c b)

/-- Remainders that differ still differ after the same bytes. -/
theorem crcUpdate_injective (s : List Byte) : Function.Injective fun c : Word => crcUpdate c s := by
  induction s with
  | nil => exact Function.injective_id
  | cons b s ih => exact ih.comp (crcStep_injective_remainder b)

/-- A checksum tells apart two sequences that differ in one byte (R134). -/
theorem crc32_ne_of_byte_ne (p q : List Byte) {x y : Byte} (h : x ≠ y) :
    crc32 (p ++ x :: q) ≠ crc32 (p ++ y :: q) := by
  intro he
  have hupdate := (BitVec.xor_left_inj _).mp he
  rw [crcUpdate_append, crcUpdate_append] at hupdate
  exact h (crcStep_injective_byte _ (crcUpdate_injective q hupdate))

/-- A collision (R134): the two differ by the polynomial itself, its leading bit and then the constant of R130, least
significant byte first, which leaves the remainder of 0. -/
theorem crc32_collision : crc32 [0, 0, 0, 0, 0] = crc32 [0x80, 0x20, 0x83, 0xB8, 0xED] := by
  decide +kernel

/-! ### The table -/

/-- Every printed entry is compared with the bit-serial step. -/
theorem crcTable_eq_map : crcTable = (List.range 256).map fun i => crcStep 0 (BitVec.ofNat 8 i) := by
  decide +kernel

theorem crcTable_length : crcTable.length = 256 := by
  rw [crcTable_eq_map, List.length_map, List.length_range]

theorem crcTable_getElem? {i : Nat} (h : i < 256) : crcTable[i]? = some (crcStep 0 (BitVec.ofNat 8 i)) := by
  rw [crcTable_eq_map, List.getElem?_map, List.getElem?_range h, Option.map_some]

theorem crcTable_getD (b : Byte) : crcTable.getD b.toNat 0 = crcStep 0 b := by
  rw [List.getD_eq_getElem?_getD, crcTable_getElem? b.isLt, Option.getD_some, BitVec.ofNat_toNat, BitVec.setWidth_eq]

theorem crcStepByTable_eq_crcStep (c : Word) (b : Byte) : crcStepByTable c b = crcStep c b := by
  rw [crcStepByTable, crcTable_getD, ← crcStep_eq_low_xor_high]

/-! ### The word of CRC.BYTE -/

theorem encode_crcByte_toNat (b : Byte) : (encode (.crcByte b)).toNat = 0x11000000 + b.toNat := by
  have h := b.isLt
  simp only [encode, Instr.opcode, Instr.imm, BitVec.toNat_ofNat]
  omega

theorem decode_crcByte (b : Byte) : decode (0x11000000 + b.toNat) = .ok (.crcByte b) :=
  encode_crcByte_toNat b ▸ decode_encode (.crcByte b)

end Sys2Proof
end

section
/-! PROOFS (statements of 40_crc). How the commands that check an operand end (R139, R141), and adjacent slices. -/

namespace Sys2Proof.Machine

/-- Two adjacent reads are one (R63). -/
theorem Memory.readBytes_add (mem : Memory) (a n m : Nat) :
    mem.readBytes a (n + m) = mem.readBytes a n ++ mem.readBytes (a + n) m := by
  induction n generalizing a with
  | zero => simp [Memory.readBytes]
  | succ n ih => simp [Memory.readBytes, Nat.succ_add, ih, Nat.add_assoc]

/-- A narrow A0 is the finished checksum exactly when its 32-bit value is (R106). -/
theorem finishedChecksum_eq_ofNat_iff {s : State} (h : s.a0 < 2 ^ 32) :
    s.crcacc ^^^ crcOnes = BitVec.ofNat 32 s.a0 ↔ (s.crcacc ^^^ crcOnes).toNat = s.a0 := by
  rw [BitVec.toNat_eq_nat, and_iff_right h]

theorem exec_crcBuf_of_out {s : State} (h : s.cfg.imemSize < s.a0 + s.a1) : exec .crcBuf s = raise .badOperand s :=
  (withSlice_of_out _ h : execCrcBuf s = _)

theorem exec_crcCheck_of_wide {s : State} (h : 2 ^ 32 ≤ s.a0) : exec .crcCheck s = raise .badOperand s :=
  (withWord_of_wide _ h : execCrcCheck s = _)

theorem exec_crcCheck_of_narrow {s : State} (h : s.a0 < 2 ^ 32) :
    exec .crcCheck s =
      if (s.crcacc ^^^ crcOnes).toNat = s.a0 then completeOk (s.setRes 1) else raise .crcMismatch s :=
  calc exec .crcCheck s
      = if s.crcacc ^^^ crcOnes = BitVec.ofNat 32 s.a0 then completeOk (s.setRes 1) else raise .crcMismatch s :=
        if_pos h
    _ = _ := by simp only [finishedChecksum_eq_ofNat_iff h]

end Sys2Proof.Machine
end

section
open Sys2Proof Sys2Proof.Machine

/-- Settles O14: linearity and bit 31 make the inner step an injection (`crcShift_injective`), and the laws follow over
bits and bytes; a collision is the polynomial itself (`crc32_collision`). -/
theorem checksumLaws : Obligations.ChecksumLaws :=
  ⟨crcUpdate_append, fun _ => rfl, crcStep_bijective_remainder, crcStep_injective_byte,
    fun p q _ _ => crc32_ne_of_byte_ne p q,
    [0, 0, 0, 0, 0], [0x80, 0x20, 0x83, 0xB8, 0xED], by decide, rfl, by decide, crc32_collision⟩

/-- Settles O15: the printed entries are compared once (`crcTable_eq_map`), and by linearity a byte step works on the
low byte alone and shifts the rest (`crcStep_eq_low_xor_high`). -/
theorem tableFormEqualsBitSerialForm : Obligations.TableFormEqualsBitSerialForm :=
  ⟨crcTable_length, fun _ => crcTable_getElem?, crcStepByTable_eq_crcStep⟩

/-- Settles O13: the words are the encoder's, and each command ends as its operand check says. -/
theorem crcCommands : Obligations.CrcCommands := by
  refine ⟨decode_encode .crcInit, decode_crcByte, decode_encode .crcBuf, decode_encode .crcFin,
    decode_encode .crcCheck, fun s => ⟨rfl, fun _ => rfl, exec_crcBuf_of_in, exec_crcBuf_of_out, ?adjacent, rfl,
      exec_crcCheck_of_wide, fun h heq => (exec_crcCheck_of_narrow h).trans (if_pos heq),
      fun h hne => (exec_crcCheck_of_narrow h).trans (if_neg hne)⟩⟩
  case adjacent =>
    intro a n m
    rw [Memory.readBytes_add, crcUpdate_append]

end

section
/-! PROOFS (statements of 41_typecode). The letters and their case bit, and a letter of either case for every wanted
property (spec 41_typecode R160 to R167). -/

namespace Sys2Proof.Machine

theorem isLetter_iff {b : Byte} :
    isLetter b = true ↔ (0x41 ≤ b.toNat ∧ b.toNat ≤ 0x5A) ∨ (0x61 ≤ b.toNat ∧ b.toNat ≤ 0x7A) := by
  simp [isLetter]

theorem isTypeCode_iff {q : Quad} :
    isTypeCode q = true ↔
      isLetter q.b0 = true ∧ isLetter q.b1 = true ∧ isLetter q.b2 = true ∧ isLetter q.b3 = true := by
  simp [isTypeCode, and_assoc]

/-- Bit 5 of a letter is set exactly in the lower case range: 0x41 to 0x5A is 2 * 32 and more, 0x61 to 0x7A is
3 * 32 and more. -/
theorem caseBit_eq_true_iff {b : Byte} (h : isLetter b = true) : b.getLsbD 5 = true ↔ 0x61 ≤ b.toNat := by
  have hbit : b.getLsbD 5 = true ↔ b.toNat / 2 ^ 5 % 2 = 1 := by
    rw [BitVec.getLsbD, Nat.testBit_eq_decide_div_mod_eq, decide_eq_true_iff]
  have hrange := isLetter_iff.mp h
  rw [hbit]
  omega

theorem caseBit_eq_false_iff {b : Byte} (h : isLetter b = true) : b.getLsbD 5 = false ↔ b.toNat ≤ 0x5A := by
  have hrange := isLetter_iff.mp h
  rw [← Bool.not_eq_true, caseBit_eq_true_iff h]
  omega

/-- A property that asks for a clear case bit asks for upper case. -/
theorem caseBit_clear_iff {b : Byte} (h : isLetter b = true) : (!b.getLsbD 5) = true ↔ b.toNat ≤ 0x5A := by
  rw [Bool.not_eq_true', caseBit_eq_false_iff h]

/-- A letter of the wanted case: `a` or `A`. -/
def letterOfCase (lower : Bool) : Byte := if lower then 0x61 else 0x41

@[simp] theorem isLetter_letterOfCase (lower : Bool) : isLetter (letterOfCase lower) = true := by
  cases lower <;> rfl

@[simp] theorem caseBit_letterOfCase (lower : Bool) : (letterOfCase lower)[5] = lower := by
  cases lower <;> rfl

/-- Every combination of the four properties is that of some type code (R167). -/
theorem exists_typeCode_with_properties (crit pub rsv safe : Bool) :
    ∃ q : Quad, isTypeCode q = true ∧ isCritical q = crit ∧ isPublic q = pub ∧ isReservedBitValid q = rsv ∧
      isSafeToCopy q = safe :=
  ⟨⟨letterOfCase !crit, letterOfCase !pub, letterOfCase !rsv, letterOfCase safe⟩,
    by simp [isTypeCode], by simp [isCritical], by simp [isPublic], by simp [isReservedBitValid],
    by simp [isSafeToCopy]⟩

end Sys2Proof.Machine
end

section
/-! PROOFS (statements of 41_typecode). Both constructors as one operation on the four bytes they are given, and the
reads of T (spec 41_typecode R169 to R176). -/

namespace Sys2Proof.Machine

section
variable {s : State} {q : Quad}

/-! ### The shared end of the constructors -/

theorem constructT_of_letters (h : isTypeCode q = true) :
    constructT q s = .next { s with t := some q, code := .ok } :=
  if_pos h

theorem constructT_of_nonLetter (h : isTypeCode q = false) :
    constructT q s = .next { s with t := none, code := .invalidTypeCode, res := 0 } := by
  rw [constructT, h]
  rfl

/-- Filling T neither reads nor writes A0. -/
theorem constructT_setA0 (q : Quad) (s : State) :
    ∃ t, constructT q s = .next t ∧ ∀ a, constructT q (s.setA0 a) = .next (t.setA0 a) := by
  cases h : isTypeCode q with
  | true => exact ⟨_, constructT_of_letters h, fun _ => constructT_of_letters h⟩
  | false => exact ⟨_, constructT_of_nonLetter h, fun _ => constructT_of_nonLetter h⟩

/-! ### TC.SET4 and TC.SETS -/

/-- A slice is the bytes that stand at its addresses (R63). -/
theorem Memory.readBytes_eq_of_getElem {m : Memory} {a : Nat} {v : List Byte}
    (h : ∀ j (hj : j < v.length), v[j] = m.readByte (a + j)) : m.readBytes a v.length = v := by
  refine List.ext_getElem? fun j => ?_
  rw [Memory.readBytes_getElem?]
  split_ifs with hj
  · rw [List.getElem?_eq_getElem hj, h j hj]
  · rw [List.getElem?_eq_none (Nat.not_lt.mp hj)]

theorem exec_tcSet4_of_wide (h : 2 ^ 32 ≤ s.a0) : exec .tcSet4 s = raise .badOperand s :=
  (withPacked_of_wide _ h : execTcSet4 s = _)

theorem exec_tcSet4_of_quad (h : s.a0 = (fromBe32 q).toNat) : exec .tcSet4 s = constructT q s :=
  (withPacked_of_quad _ h : execTcSet4 s = _)

theorem exec_tcSets_of_out (h : s.cfg.imemSize < s.a0 + s.a1) : exec .tcSets s = raise .badOperand s :=
  (withSlice_of_out _ h : execTcSets s = _)

theorem exec_tcSets_of_length_ne (hin : s.a0 + s.a1 ≤ s.cfg.imemSize) (hlen : s.a1 ≠ 4) :
    exec .tcSets s = raise .invalidTypeCode (s.setT none) :=
  (withSlice_of_in _ hin : execTcSets s = _).trans (if_pos hlen)

theorem exec_tcSets_of_four (hin : s.a0 + s.a1 ≤ s.cfg.imemSize) (hlen : s.a1 = 4)
    (hbytes : s.imem.readBytes s.a0 4 = q.bytes) : exec .tcSets s = constructT q s :=
  calc exec .tcSets s
      = constructT (quadAt (s.imem.readBytes s.a0 s.a1) 0) s :=
        (withSlice_of_in _ hin : execTcSets s = _).trans (if_neg (not_not_intro hlen))
    _ = constructT q s := by
        rw [hlen, hbytes]
        rfl

/-! ### Reads of T -/

theorem exec_tcBytes_of_some (ht : s.t = some q) :
    exec .tcBytes s = completeOk (s.setRes (fromBe32 q).toNat) :=
  (withT_some _ ht : execTcBytes s = _)

theorem readProperty_of_some (p : Quad → Bool) (ht : s.t = some q) :
    readProperty p s = .next { s with code := .ok, res := (p q).toNat } :=
  withT_some _ ht

/-- A property that asks for a bit to be set (R175). -/
theorem readProperty_of_setBit {p : Quad → Bool} {bit : Bool} (ht : s.t = some q) (hp : p q = bit) :
    readProperty p s = .next { s with code := .ok, res := if bit = true then 1 else 0 } := by
  rw [readProperty_of_some p ht, hp]
  cases bit <;> rfl

/-- A property that asks for a bit to be clear (R172 to R174, R176). -/
theorem readProperty_of_clearBit {p : Quad → Bool} {bit : Bool} (ht : s.t = some q) (hp : p q = !bit) :
    readProperty p s = .next { s with code := .ok, res := if bit = false then 1 else 0 } := by
  rw [readProperty_of_some p ht, hp]
  cases bit <;> rfl

end

end Sys2Proof.Machine
end

section
/-! PROOFS (statements of 41_typecode). The bytes of a record and of a document, and how many they are (spec
42_chunk_framer R91, R192, 43_document R96, R232). -/

namespace Sys2Proof.Machine

/-- A record of a valid chunk is 12 bytes and the declared length (R91). -/
theorem Chunk.Valid.chunkBytes_length {c : Chunk} (h : c.Valid) : (chunkBytes c).length = 12 + c.len.toNat := by
  rw [Machine.chunkBytes_length, h.len_eq]

theorem recordsBytes_eq_flatten (cs : List Chunk) : recordsBytes cs = (cs.map chunkBytes).flatten := by
  induction cs with
  | nil => rfl
  | cons c cs ih => rw [recordsBytes, ih, List.map_cons, List.flatten_cons]

theorem docBytes_eq_flatten (cs : List Chunk) : docBytes cs = signature ++ (cs.map chunkBytes).flatten := by
  rw [docBytes, recordsBytes_eq_flatten]

theorem recordsBytes_length {cs : List Chunk} (h : ∀ c ∈ cs, c.Valid) :
    (recordsBytes cs).length = (cs.map fun c => 12 + c.len.toNat).sum := by
  induction cs with
  | nil => rfl
  | cons c cs ih =>
    obtain ⟨hc, hcs⟩ := List.forall_mem_cons.mp h
    rw [recordsBytes, List.length_append, hc.chunkBytes_length, ih hcs, List.map_cons, List.sum_cons]

theorem docBytes_length {cs : List Chunk} (h : ∀ c ∈ cs, c.Valid) :
    (docBytes cs).length = 8 + (cs.map fun c => 12 + c.len.toNat).sum := by
  rw [docBytes, List.length_append, recordsBytes_length h]
  rfl

section
variable {s : State}

theorem outputOf_tcRender {q : Quad} (h : s.t = some q) : outputOf .tcRender s = some q.bytes :=
  congrArg (Option.map Quad.bytes) h

theorem outputOf_chEmit {c : Chunk} (h : s.ch = some c) : outputOf .chEmit s = some (chunkBytes c) :=
  congrArg (Option.map chunkBytes) h

theorem outputOf_chData {c : Chunk} (h : s.ch = some c) : outputOf .chData s = some c.data :=
  congrArg (Option.map Chunk.data) h

theorem outputOf_docEmit {cs : List Chunk} (h : s.doc = some cs) : outputOf .docEmit s = some (docBytes cs) :=
  congrArg (Option.map docBytes) h

end

end Sys2Proof.Machine
end

section
open Sys2Proof Sys2Proof.Machine

/-- Settles O20: TC.SETS of a 4-byte slice and TC.SET4 of the packed bytes are one operation on the four bytes
(`exec_tcSets_of_four`, `exec_tcSet4_of_quad`), to which A0 is nothing (`constructT_setA0`). -/
theorem stringAndPackedConstructorsAgree : Obligations.StringAndPackedConstructorsAgree := by
  intro s q hin hlen hbytes
  obtain ⟨t, ht, hpacked⟩ := constructT_setA0 q s
  have hslice : s.imem.readBytes s.a0 4 = q.bytes := Memory.readBytes_eq_of_getElem hbytes
  exact ⟨t, (exec_tcSets_of_four hin hlen hslice).trans ht, (exec_tcSet4_of_quad rfl).trans (hpacked _)⟩

/-- Settles O23: the bytes are read off `outputOf`; the counts are those of valid chunks (R31, R32), whose length field
is the number of their data bytes. -/
theorem outputBytesAndCounts : Obligations.OutputBytesAndCounts := by
  intro s hinv
  refine ⟨fun q ht => outputOf_tcRender ht, fun c hc => ?chEmit, fun c hc => ?chData, fun cs hd => ?docEmit⟩
  case chEmit =>
    exact ⟨be32 c.len, be32 c.crc, fromBe32_be32 _, fromBe32_be32 _, outputOf_chEmit hc,
      (hinv.ch_valid c hc).chunkBytes_length⟩
  case chData => exact ⟨outputOf_chData hc, (hinv.ch_valid c hc).len_eq.symm⟩
  case docEmit =>
    have hout := outputOf_docEmit hd
    refine ⟨hout.trans (congrArg some (docBytes_eq_flatten cs)), fun v hv => ?_⟩
    obtain rfl : docBytes cs = v := Option.some.inj (hout.symm.trans hv)
    exact docBytes_length (hinv.doc_valid cs hd)

/-- Settles O18: bit 5 of a letter is its case (`caseBit_eq_true_iff`), each property asks for the case of one byte, and
letters of the wanted cases give any combination. -/
theorem lettersAndTheirCaseBit : Obligations.LettersAndTheirCaseBit := by
  refine ⟨fun _ => isLetter_iff, fun _ hb => ⟨caseBit_eq_false_iff hb, caseBit_eq_true_iff hb⟩,
    fun q hq => ?properties, exists_typeCode_with_properties⟩
  case properties =>
    obtain ⟨h0, h1, h2, h3⟩ := isTypeCode_iff.mp hq
    exact ⟨caseBit_clear_iff h0, caseBit_clear_iff h1, caseBit_clear_iff h2, caseBit_eq_true_iff h3⟩

/-- Settles O19: the words are the encoder's; each constructor fails its operand check or is `constructT` on the four
bytes it is given. -/
theorem typeCodeConstructors : Obligations.TypeCodeConstructors :=
  ⟨decode_encode .tcSet4, decode_encode .tcSets, fun _ =>
    ⟨exec_tcSet4_of_wide,
      fun _ ha hq => (exec_tcSet4_of_quad ha).trans (constructT_of_letters hq),
      fun _ ha hq => (exec_tcSet4_of_quad ha).trans (constructT_of_nonLetter hq),
      exec_tcSets_of_out, exec_tcSets_of_length_ne,
      fun _ hin hlen hbytes =>
        ⟨fun hq => (exec_tcSets_of_four hin hlen hbytes).trans (constructT_of_letters hq),
          fun hq => (exec_tcSets_of_four hin hlen hbytes).trans (constructT_of_nonLetter hq)⟩⟩⟩

/-- Settles O21: the words are the encoder's; with T empty each read raises NoValue, and with a type code in T each
reports the packed bytes or one bit of one byte. -/
theorem typeCodeReads : Obligations.TypeCodeReads := by
  refine ⟨decode_encode .tcBytes, decode_encode .tcIsCrit, decode_encode .tcIsPub, decode_encode .tcIsRsv,
    decode_encode .tcIsSafe, decode_encode .tcIsValid, fun s => ⟨fun ht => ?empty, fun q ht => ?full⟩⟩
  case empty =>
    simp only [List.forall_mem_cons]
    exact ⟨withT_none _ ht, withT_none _ ht, withT_none _ ht, withT_none _ ht, withT_none _ ht, withT_none _ ht,
      List.forall_mem_nil _⟩
  case full =>
    refine ⟨?_, readProperty_of_clearBit ht rfl, readProperty_of_clearBit ht rfl, readProperty_of_clearBit ht rfl,
      readProperty_of_setBit ht rfl, readProperty_of_clearBit ht rfl⟩
    rw [exec_tcBytes_of_some ht, fromBe32_toNat]
    rfl

end

section
/-! PROOFS (statements of 42_chunk_framer). Four bytes of a sequence, and one overwritten byte of it (spec
00_scope R10, 40_crc R134). -/

namespace Sys2Proof

section
variable {s : List Byte} {i off : Nat} {b x : Byte}

/-- Bytes outside the four are not read. -/
theorem quadAt_set_outside (h : i < off ∨ off + 4 ≤ i) : quadAt (s.set i x) off = quadAt s off := by
  have hne : ∀ j, off ≤ j → j < off + 4 → (s.set i x)[j]? = s[j]? :=
    fun j _ _ => List.getElem?_set_ne (by omega)
  simp only [quadAt, List.getD_eq_getElem?_getD]
  rw [hne off, hne (off + 1), hne (off + 2), hne (off + 3)] <;> omega

/-- Overwriting one of the four bytes does so in the group. -/
theorem quadAt_set_inside (hlen : off + 4 ≤ s.length) (hlo : off ≤ i) :
    (quadAt (s.set i x) off).bytes = (quadAt s off).bytes.set (i - off) x := by
  rw [quadAt_bytes_eq_take (by rwa [List.length_set]), quadAt_bytes_eq_take hlen, List.drop_set,
    if_neg (Nat.not_lt.mpr hlo), List.take_set]

theorem bytes_quadAt_getElem? (hlen : off + 4 ≤ s.length) (hlo : off ≤ i) (hhi : i < off + 4) :
    (quadAt s off).bytes[i - off]? = s[i]? := by
  rw [quadAt_bytes_eq_take hlen, List.getElem?_take_of_lt (by omega), List.getElem?_drop, Nat.add_sub_cancel' hlo]

theorem set_ne_self (hb : s[i]? = some b) (hx : x ≠ b) : s.set i x ≠ s := by
  intro h
  obtain ⟨hi, -⟩ := List.getElem?_eq_some_iff.mp hb
  have hget : (s.set i x)[i]? = some x := List.getElem?_set_self hi
  rw [h, hb] at hget
  exact hx (Option.some.inj hget).symm

/-- Overwriting one byte with another changes the checksum (R134). -/
theorem crc32_set_ne (hb : s[i]? = some b) (hx : x ≠ b) : crc32 (s.set i x) ≠ crc32 s := by
  obtain ⟨hi, rfl⟩ := List.getElem?_eq_some_iff.mp hb
  have hs : s = s.take i ++ s[i] :: s.drop (i + 1) := by
    rw [List.cons_getElem_drop_succ, List.take_append_drop]
  rw [List.set_eq_take_append_cons_drop, if_pos hi]
  exact fun h => crc32_ne_of_byte_ne _ _ hx (h.trans (congrArg crc32 hs))

end

/-- Flipping one bit of a byte changes it. -/
theorem flipBit_ne (b : Byte) {k : Nat} (hk : k < 8) : b ^^^ (1#8 <<< k) ≠ b := by
  have hmask : ∀ k < 8, 1#8 <<< k ≠ 0#8 := by decide
  exact fun h => hmask k hk ((BitVec.xor_right_inj b).mp (h.trans BitVec.xor_zero.symm))

theorem fromBe32_injective : Function.Injective fromBe32 :=
  Function.LeftInverse.injective be32_fromBe32

end Sys2Proof
end

section
/-! PROOFS (statements of 42_chunk_framer). The type field as four bytes, each of them a letter (spec 41_typecode R160,
R161). -/

namespace Sys2Proof.Machine

theorem isTypeCode_iff_forall_mem {q : Quad} : isTypeCode q = true ↔ ∀ y ∈ q.bytes, isLetter y = true := by
  simp [isTypeCode_iff, Quad.bytes]

/-- One byte of a type code overwritten leaves a type code exactly when the new byte is a letter. -/
theorem isTypeCode_of_bytes_set {q q' : Quad} {j : Nat} {x : Byte} (hq : isTypeCode q = true) (hj : j < 4)
    (h : q'.bytes = q.bytes.set j x) : isTypeCode q' = isLetter x := by
  rw [Bool.eq_iff_iff, isTypeCode_iff_forall_mem, h]
  constructor
  · exact fun hall => hall x (List.mem_set hj x)
  · intro hx y hy
    rcases List.mem_or_eq_of_mem_set hy with hmem | rfl
    · exact isTypeCode_iff_forall_mem.mp hq y hmem
    · exact hx

/-- Bit 5 of a letter is its case: flipping it gives the letter of the other case (R160). -/
theorem isLetter_flip_caseBit : ∀ b : Byte, isLetter b = true → isLetter (b ^^^ (1#8 <<< 5)) = true := by
  decide

end Sys2Proof.Machine
end

section
/-! PROOFS (statements of 42_chunk_framer). The rows of `parse_record`, one lemma each beside `parseRecord_of_tests`
(spec 42_chunk_framer R196, R197). -/

namespace Sys2Proof.Machine

section
variable {s : List Byte}

theorem parseRecord_of_short (h : s.length < 12) : parseRecord s = .error .truncatedChunk := if_pos h

theorem parseRecord_of_oversized (h12 : 12 ≤ s.length) (hceil : lenCeiling < (fromBe32 (quadAt s 0)).toNat) :
    parseRecord s = .error .oversizedChunk :=
  (if_neg (Nat.not_lt.mpr h12)).trans (if_pos hceil)

theorem parseRecord_of_nonLetter (h12 : 12 ≤ s.length) (hceil : (fromBe32 (quadAt s 0)).toNat ≤ lenCeiling)
    (ht : isTypeCode (quadAt s 4) = false) : parseRecord s = .error .invalidTypeCode := by
  simp only [parseRecord]
  rw [if_neg (by omega), if_neg (by omega), ht, if_pos (by decide)]

theorem parseRecord_of_truncated (h12 : 12 ≤ s.length) (hceil : (fromBe32 (quadAt s 0)).toNat ≤ lenCeiling)
    (ht : isTypeCode (quadAt s 4) = true) (hlen : s.length < 12 + (fromBe32 (quadAt s 0)).toNat) :
    parseRecord s = .error .truncatedChunk := by
  simp only [parseRecord]
  rw [if_neg (by omega), if_neg (by omega), ht, if_neg (by decide), if_pos hlen, ite_self]

theorem parseRecord_of_crc_ne (hceil : (fromBe32 (quadAt s 0)).toNat ≤ lenCeiling)
    (ht : isTypeCode (quadAt s 4) = true) (hlen : 12 + (fromBe32 (quadAt s 0)).toNat ≤ s.length)
    (hcrc : crc32 ((quadAt s 4).bytes ++ (s.drop 8).take (fromBe32 (quadAt s 0)).toNat)
      ≠ fromBe32 (quadAt s (8 + (fromBe32 (quadAt s 0)).toNat))) :
    parseRecord s = .error .crcMismatch := by
  simp only [parseRecord]
  rw [if_neg (by omega), if_neg (by omega), ht, if_neg (by decide), if_neg (by omega), if_neg (by omega),
    if_pos hcrc]

/-- The two codes that name their field: OversizedChunk a length above the ceiling, InvalidTypeCode a non-letter. -/
theorem parseRecord_error_field {e : Code} (h : parseRecord s = .error e) :
    (e = .oversizedChunk → lenCeiling < (fromBe32 (quadAt s 0)).toNat) ∧
      (e = .invalidTypeCode → isTypeCode (quadAt s 4) = false) := by
  simp only [parseRecord] at h
  split_ifs at h with _ hceil ht <;> cases h <;> simp_all

/-- The type field and the data are one run of bytes, the one the checksum is of (R196 step 6). -/
theorem typ_append_data_eq_take (h : 8 ≤ s.length) (n : Nat) :
    (quadAt s 4).bytes ++ (s.drop 8).take n = (s.drop 4).take (4 + n) := by
  rw [quadAt_bytes_eq_take h, List.take_add, List.drop_drop]

end

/-! ### The record of a chunk -/

theorem chunkBytes_append (c : Chunk) (r : List Byte) :
    chunkBytes c ++ r = ((be32 c.len).bytes ++ c.typ.bytes ++ c.data) ++ ((be32 c.crc).bytes ++ r) :=
  List.append_assoc ..

@[simp] theorem quadAt_chunkBytes_len (c : Chunk) (r : List Byte) : quadAt (chunkBytes c ++ r) 0 = be32 c.len := rfl

@[simp] theorem quadAt_chunkBytes_typ (c : Chunk) (r : List Byte) : quadAt (chunkBytes c ++ r) 4 = c.typ := rfl

theorem quadAt_chunkBytes_crc (c : Chunk) (r : List Byte) :
    quadAt (chunkBytes c ++ r) (8 + c.data.length) = be32 c.crc := by
  have hprefix : ((be32 c.len).bytes ++ c.typ.bytes ++ c.data).length = 8 + c.data.length := by
    simp only [List.length_append, Quad.bytes_length]
  rw [chunkBytes_append, ← Nat.add_zero (8 + _), ← hprefix, quadAt_append, quadAt_bytes_append]

theorem take_drop_chunkBytes (c : Chunk) (r : List Byte) :
    ((chunkBytes c ++ r).drop 8).take c.data.length = c.data := by
  have hdrop : (chunkBytes c ++ r).drop 8 = c.data ++ (be32 c.crc).bytes ++ r := rfl
  rw [hdrop, List.append_assoc, List.take_left]

section
variable {c : Chunk}

theorem le_length_chunkBytes_append (hc : c.Valid) (r : List Byte) :
    12 + c.len.toNat ≤ (chunkBytes c ++ r).length := by
  rw [List.length_append, hc.chunkBytes_length]
  omega

/-- A valid chunk within the ceiling parses back from its record, whatever follows (R198). -/
theorem parseRecord_chunkBytes (hc : c.Valid) (hceil : c.len.toNat ≤ lenCeiling) (r : List Byte) :
    parseRecord (chunkBytes c ++ r) = .ok (c, 12 + c.len.toNat) := by
  have hlen := le_length_chunkBytes_append hc r
  have hcrc := quadAt_chunkBytes_crc c r
  have hdata := take_drop_chunkBytes c r
  rw [← hc.len_eq] at hcrc hdata
  have hparse := parseRecord_of_tests (s := chunkBytes c ++ r) (by omega) (by simpa using hceil)
    (by simpa using hc.letters) (by simpa using hlen) (by simp [hcrc, hdata, hc.crc_eq])
  simpa only [quadAt_chunkBytes_len, quadAt_chunkBytes_typ, fromBe32_be32, hdata, ← hc.crc_eq] using hparse

/-- The same of a chunk above the ceiling: its length field is read first. -/
theorem parseRecord_chunkBytes_oversized (hc : c.Valid) (hceil : lenCeiling < c.len.toNat) (r : List Byte) :
    parseRecord (chunkBytes c ++ r) = .error .oversizedChunk := by
  have hlen := le_length_chunkBytes_append hc r
  exact parseRecord_of_oversized (by omega) (by simpa using hceil)

end

end Sys2Proof.Machine
end

section
/-! PROOFS (statements of 42_chunk_framer). A record with one byte overwritten (spec 42_chunk_framer R200). -/

namespace Sys2Proof.Machine

section
variable {s : List Byte} {c : Chunk} {k i : Nat} {b x : Byte}

/-- From byte 4 on every byte is covered by the checksum or is part of it, not both. -/
theorem parseRecord_set_crcMismatch (hp : parseRecord s = .ok (c, k)) (hb : s[i]? = some b) (hx : x ≠ b)
    (hlo : 4 ≤ i) (hhi : i < k) (ht : isTypeCode (quadAt (s.set i x) 4) = true) :
    parseRecord (s.set i x) = .error .crcMismatch := by
  obtain ⟨hceil, -, hlen, hk, htyp, hl, hdata, hcrc, hfield⟩ := parseRecord_ok hp
  rw [← hl] at hceil hlen hk
  have hl' : fromBe32 (quadAt (s.set i x) 0) = c.len := by rw [quadAt_set_outside (.inr hlo), hl]
  have hsum : crc32 ((s.drop 4).take (4 + c.len.toNat)) = fromBe32 (quadAt s (8 + c.len.toNat)) := by
    rw [← typ_append_data_eq_take (by omega), ← htyp, ← hdata, ← hcrc, hfield]
  refine parseRecord_of_crc_ne (by rwa [hl']) ht (by rwa [hl', List.length_set]) ?_
  rw [hl', typ_append_data_eq_take (by rw [List.length_set]; omega), List.drop_set, if_neg (by omega), List.take_set]
  by_cases hbody : i < 8 + c.len.toNat
  · have hb' : ((s.drop 4).take (4 + c.len.toNat))[i - 4]? = some b := by
      rw [List.getElem?_take_of_lt (by omega), List.getElem?_drop, Nat.add_sub_cancel' hlo, hb]
    rw [quadAt_set_outside (.inl hbody), ← hsum]
    exact crc32_set_ne hb' hx
  · have hend : 8 + c.len.toNat + 4 ≤ s.length := by omega
    have hb' : (quadAt s (8 + c.len.toNat)).bytes[i - (8 + c.len.toNat)]? = some b := by
      rw [bytes_quadAt_getElem? hend (by omega) (by omega), hb]
    rw [List.set_eq_of_length_le (by rw [List.length_take]; omega), hsum]
    intro heq
    have hbytes := congrArg Quad.bytes (fromBe32_injective heq)
    rw [quadAt_set_inside hend (by omega)] at hbytes
    exact set_ne_self hb' hx hbytes.symm

/-- A byte overwritten in the type field: still a type code exactly when the new byte is a letter. -/
theorem isTypeCode_quadAt_set (hp : parseRecord s = .ok (c, k)) (hlo : 4 ≤ i) (hhi : i < 8) :
    isTypeCode (quadAt (s.set i x) 4) = isLetter x := by
  obtain ⟨-, ht, hlen, -⟩ := parseRecord_ok hp
  exact isTypeCode_of_bytes_set ht (by omega) (quadAt_set_inside (by omega) hlo)

theorem isLetter_of_typeField (hp : parseRecord s = .ok (c, k)) (hb : s[i]? = some b) (hlo : 4 ≤ i) (hhi : i < 8) :
    isLetter b = true := by
  obtain ⟨-, ht, hlen, -⟩ := parseRecord_ok hp
  rw [← bytes_quadAt_getElem? (off := 4) (by omega) hlo hhi] at hb
  exact isTypeCode_iff_forall_mem.mp ht b (List.mem_of_getElem? hb)

theorem parseRecord_set_nonLetter (hp : parseRecord s = .ok (c, k)) (hlo : 4 ≤ i) (hhi : i < 8)
    (hx : isLetter x = false) : parseRecord (s.set i x) = .error .invalidTypeCode := by
  obtain ⟨hceil, -, hlen, -⟩ := parseRecord_ok hp
  exact parseRecord_of_nonLetter (by rw [List.length_set]; omega) (by rwa [quadAt_set_outside (.inr hlo)])
    ((isTypeCode_quadAt_set hp hlo hhi).trans hx)

/-- A byte overwritten in the length field leaves the type field, so that InvalidTypeCode is no outcome and a success
is a checksum that holds at the new position. -/
theorem parseRecord_set_lengthField (hp : parseRecord s = .ok (c, k)) (hi : i < 4) :
    parseRecord (s.set i x) = .error .oversizedChunk ∨ parseRecord (s.set i x) = .error .truncatedChunk ∨
      parseRecord (s.set i x) = .error .crcMismatch ∨
      ∃ d n, parseRecord (s.set i x) = .ok (d, n) ∧
        crc32 (c.typ.bytes ++ ((s.set i x).drop 8).take (n - 12)) = fromBe32 (quadAt (s.set i x) (n - 4)) := by
  obtain ⟨-, ht, -, -, htyp, -⟩ := parseRecord_ok hp
  have hsame : quadAt (s.set i x) 4 = quadAt s 4 := quadAt_set_outside (.inl hi)
  cases hs : parseRecord (s.set i x) with
  | error e =>
    rcases parseRecord_error hs with rfl | rfl | rfl | rfl
    · exact .inr (.inl rfl)
    · exact .inl rfl
    · have hne := (parseRecord_error_field hs).2 rfl
      rw [hsame, ht] at hne
      contradiction
    · exact .inr (.inr (.inl rfl))
  | ok p =>
    obtain ⟨d, n⟩ := p
    obtain ⟨-, -, -, hn, htyp', hl, hdata, hcrc, hfield⟩ := parseRecord_ok hs
    have hn12 : n - 12 = d.len.toNat := by rw [hn, hl]; omega
    have hn4 : n - 4 = 8 + d.len.toNat := by rw [hn, hl]; omega
    refine .inr (.inr (.inr ⟨d, n, rfl, ?_⟩))
    rw [hn12, hn4, ← hdata, ← hfield, hcrc, htyp, htyp', hsame]

end

end Sys2Proof.Machine
end

section
/-! PROOFS (statements of 42_chunk_framer). How CH.NEW and CH.PARSE end, check by check (spec 42_chunk_framer R210,
R211). -/

namespace Sys2Proof.Machine

section
variable {s : State} {q : Quad}

/-! ### CH.NEW -/

theorem exec_chNew_of_empty (ht : s.t = none) : exec .chNew s = raise .noValue s :=
  (withT_none _ ht : execChNew s = _)

theorem exec_chNew_of_badOperand (ht : s.t = some q) (h : s.cfg.imemSize < s.a0 + s.a1 ∨ 2 ^ 32 - 1 < s.a1) :
    exec .chNew s = raise .badOperand s := by
  refine (withT_some _ ht : execChNew s = _).trans ?_
  by_cases hin : s.a0 + s.a1 ≤ s.cfg.imemSize
  · rw [withSlice_of_in _ hin, if_pos (h.resolve_left (Nat.not_lt.mpr hin))]
  · exact withSlice_of_out _ (Nat.not_le.mp hin)

/-- With both operand checks passed, the capacity decides. -/
theorem exec_chNew_of_goodOperand (ht : s.t = some q) (hin : s.a0 + s.a1 ≤ s.cfg.imemSize)
    (hlen : s.a1 ≤ 2 ^ 32 - 1) :
    exec .chNew s =
      if s.cfg.chDataMax < s.a1 then raise .storeFull s
      else completeOk ((s.setCh (some (chunkNew q (s.imem.readBytes s.a0 s.a1)))).setRes
        (chunkNew q (s.imem.readBytes s.a0 s.a1)).crc.toNat) := by
  refine (withT_some _ ht : execChNew s = _).trans ?_
  rw [withSlice_of_in _ hin, if_neg (Nat.not_lt.mpr hlen)]

/-- The chunk constructed from a slice, field by field (R193): its length is that of the slice. -/
theorem chunkNew_readBytes (q : Quad) (m : Memory) (a n : Nat) :
    chunkNew q (m.readBytes a n) =
      { typ := q, data := m.readBytes a n, len := BitVec.ofNat 32 n, crc := crc32 (q.bytes ++ m.readBytes a n) } := by
  rw [chunkNew, Memory.readBytes_length]

/-! ### CH.PARSE -/

theorem exec_chParse_of_out (h : s.cfg.imemSize < s.a0 + s.a1) : exec .chParse s = raise .badOperand s :=
  (withSlice_of_out _ h : execChParse s = _)

theorem exec_chParse_of_error {e : Code} (hin : s.a0 + s.a1 ≤ s.cfg.imemSize)
    (hp : parseRecord (s.imem.readBytes s.a0 s.a1) = .error e) :
    exec .chParse s = raise e ((s.setCh none).setEaddr s.a0) := by
  refine (withSlice_of_in _ hin : execChParse s = _).trans ?_
  rw [hp]

theorem exec_chParse_of_ok {c : Chunk} {k : Nat} (hin : s.a0 + s.a1 ≤ s.cfg.imemSize)
    (hp : parseRecord (s.imem.readBytes s.a0 s.a1) = .ok (c, k)) :
    exec .chParse s =
      if s.cfg.chDataMax < c.len.toNat then raise .storeFull s else completeOk ((s.setCh (some c)).setRes k) := by
  refine (withSlice_of_in _ hin : execChParse s = _).trans ?_
  rw [hp]

end

end Sys2Proof.Machine
end

section
open Sys2Proof Sys2Proof.Machine

/-- Settles O30: a record's fields read back as the chunk's (`parseRecord_chunkBytes`), and the bytes a parse consumes
are its chunk's record (`parseRecord_take`). -/
theorem recordRoundTrip : Obligations.RecordRoundTrip := by
  refine ⟨fun c r hc hceil => parseRecord_chunkBytes hc hceil r, fun s c k hp => ?accepted,
    fun t d ht hd => ?constructed, fun c r hc hceil => parseRecord_chunkBytes_oversized hc hceil r⟩
  case accepted =>
    obtain ⟨-, hk, -⟩ := parseRecord_consumed hp
    exact ⟨hk, parseRecord_take hp, parseRecord_valid hp⟩
  case constructed =>
    have h32 : d.length ≤ 2 ^ 32 - 1 := by omega
    have hc : (chunkNew t d).Valid := (chunkNew_held (cfg := Config.suggested) ht h32 h32).valid
    have hl : (chunkNew t d).len.toNat = d.length := hc.len_eq
    have hparse := parseRecord_chunkBytes hc (hl.trans_le hd) []
    rwa [List.append_nil, hl] at hparse

/-- Settles O31: the bytes consumed are the record of the parsed chunk, which parses back whatever follows (R198). -/
theorem parseIgnoresFollowingBytes : Obligations.ParseIgnoresFollowingBytes := by
  intro s c k hp
  obtain ⟨-, hle, hk⟩ := parseRecord_consumed hp
  refine ⟨hk, hle, fun r => ?_⟩
  rw [parseRecord_take hp, hk]
  exact parseRecord_chunkBytes (parseRecord_valid hp) (parseRecord_len_le hp) r

/-- Settles O32: a flipped bit is an overwritten byte. From byte 4 on it changes either what the checksum covers or the
checksum (`parseRecord_set_crcMismatch`), in the type field a letter or not; in the length field it leaves the type. -/
theorem oneBitFlipByField : Obligations.OneBitFlipByField := by
  rintro c i k b s hc hceil hk hb rfl
  have hp := parseRecord_chunkBytes hc hceil []
  rw [List.append_nil] at hp
  have hi : i < 12 + c.len.toNat := hc.chunkBytes_length ▸ (List.getElem?_eq_some_iff.mp hb).1
  have hmismatch := fun h4 => parseRecord_set_crcMismatch hp hb (flipBit_ne b hk) h4 hi
  refine ⟨fun h8 => ?dataOrCrc, fun h4 h8 hx => ?letter, fun h4 h8 h5 => ?caseBit,
    fun h4 h8 => parseRecord_set_nonLetter hp h4 h8, parseRecord_set_lengthField hp⟩
  case dataOrCrc =>
    obtain ⟨-, ht, -⟩ := parseRecord_ok hp
    exact hmismatch (by omega) (by rwa [quadAt_set_outside (.inr h8)])
  case letter => exact hmismatch h4 ((isTypeCode_quadAt_set hp h4 h8).trans hx)
  case caseBit => exact h5 ▸ isLetter_flip_caseBit b (isLetter_of_typeField hp hb h4 h8)

/-- Settles O26: the word is the encoder's, and each check of R210 ends the command in its turn. -/
theorem chNewBuildsTheChunk : Obligations.ChNewBuildsTheChunk := by
  refine ⟨decode_encode .chNew, fun s => ⟨exec_chNew_of_empty, fun q ht => ⟨exec_chNew_of_badOperand ht,
    fun hin hlen hfull => (exec_chNew_of_goodOperand ht hin hlen).trans (if_pos hfull),
    fun hin hlen hfits => ?built⟩⟩⟩
  case built =>
    rw [exec_chNew_of_goodOperand ht hin hlen, if_neg (Nat.not_lt.mpr hfits), chunkNew_readBytes]
    rfl

/-- Settles O27: the word is the encoder's; a slice in bounds ends as `parse_record` of it says, then the capacity. -/
theorem chParseLoadsOrEmptiesCh : Obligations.ChParseLoadsOrEmptiesCh := by
  refine ⟨decode_encode .chParse, fun s => ⟨exec_chParse_of_out, fun hin e hp => exec_chParse_of_error hin hp,
    fun hin c k hp => ⟨?consumed, fun hfull => ?full, fun hfits => ?loaded⟩⟩⟩
  case consumed =>
    obtain ⟨-, -, hk⟩ := parseRecord_consumed hp
    exact hk
  case full => exact (exec_chParse_of_ok hin hp).trans (if_pos hfull)
  case loaded => exact (exec_chParse_of_ok hin hp).trans (if_neg (Nat.not_lt.mpr hfits))

/-- Settles O28: the words are the encoder's; with CH empty each read raises NoValue, else it reports its field. -/
theorem chunkReads : Obligations.ChunkReads := by
  refine ⟨decode_encode .chLen, decode_encode .chType, decode_encode .chCrc, fun s => ⟨fun hc => ?empty, fun c hc =>
    ⟨withCh_some _ hc, withCh_some _ hc, withCh_some _ hc⟩⟩⟩
  case empty =>
    simp only [List.forall_mem_cons]
    exact ⟨withCh_none _ hc, withCh_none _ hc, withCh_none _ hc, List.forall_mem_nil _⟩

/-- Settles O29: one lemma per row of R197; at the ceiling itself the length field is not what fails. -/
theorem parseStepOrder : Obligations.ParseStepOrder := by
  rintro s L q rfl rfl
  refine ⟨parseRecord_of_short, parseRecord_of_oversized, fun _ hL hover => ?ceiling, parseRecord_of_nonLetter,
    parseRecord_of_truncated, parseRecord_of_crc_ne, fun hceil ht hlen hcrc =>
      ⟨_, parseRecord_of_tests (by omega) hceil ht hlen hcrc, rfl, rfl, rfl⟩⟩
  case ceiling => exact ((parseRecord_error_field hover).1 rfl).ne' hL

end

section
/-! PROOFS (statements of 43_document). The loop of `doc_parse` and the records it reads, both ways (spec 43_document
R232, R233, R235): a successful loop's bytes are its chunks' records, and records of valid chunks in front are read off
whatever follows them. -/

namespace Sys2Proof.Machine

/-! ### A buffer that parses -/

/-- On no bytes the loop is done, whatever fuel is left. -/
theorem docRecords_nil (f pos : Nat) : docRecords f pos [] = .ok [] := by
  cases f <;> rfl

/-- The two ways the loop succeeds: on no bytes, or with a record parsed and then the rest (R233). -/
theorem docRecords_ok_cases {f pos : Nat} {s : List Byte} {cs : List Chunk} (h : docRecords f pos s = .ok cs) :
    (s = [] ∧ cs = []) ∨
      ∃ g c k ds, cs = c :: ds ∧ parseRecord s = .ok (c, k) ∧ docRecords g (pos + k) (s.drop k) = .ok ds := by
  cases s with
  | nil =>
    rw [docRecords_nil, Except.ok.injEq] at h
    exact .inl ⟨rfl, h.symm⟩
  | cons b rest =>
    cases f with
    | zero => cases h
    | succ g =>
      rw [docRecords_turn (by simp)] at h
      cases hp : parseRecord (b :: rest) with
      | error e => simp [hp] at h
      | ok p =>
        obtain ⟨c, k⟩ := p
        simp only [hp] at h
        cases hr : docRecords g (pos + k) ((b :: rest).drop k) with
        | error e => simp [hr] at h
        | ok ds =>
          simp only [hr, Except.ok.injEq] at h
          exact .inr ⟨g, c, k, ds, h.symm, rfl, hr⟩

/-- A successful loop reads exactly the records of its chunks. -/
theorem recordsBytes_of_docRecords {f pos : Nat} {s : List Byte} {cs : List Chunk}
    (h : docRecords f pos s = .ok cs) : recordsBytes cs = s := by
  induction cs generalizing f pos s with
  | nil =>
    obtain ⟨rfl, -⟩ | ⟨g, c, k, ds, hcs, -⟩ := docRecords_ok_cases h
    · rfl
    · cases hcs
  | cons c cs ih =>
    obtain ⟨-, hcs⟩ | ⟨g, _, k, _, hcs, hp, hr⟩ := docRecords_ok_cases h
    · cases hcs
    · cases hcs
      calc recordsBytes (c :: cs) = s.take k ++ s.drop k := by rw [recordsBytes, ih hr, parseRecord_take hp]
        _ = s := List.take_append_drop k s

/-- Re-serializing a parsed document gives the buffer back (R235 (a)). -/
theorem docBytes_of_docParse {s : List Byte} {cs : List Chunk} (h : docParse s = .ok cs) : docBytes cs = s := by
  obtain ⟨hsig, hr⟩ := docParse_ok h
  rw [docBytes, recordsBytes_of_docRecords hr, ← hsig, List.take_append_drop]

/-! ### A buffer that begins with records -/

/-- Records in front are read off, and the loop goes on with what follows them, from their end. -/
theorem docRecords_recordsBytes_append {cs : List Chunk} (hcs : ∀ c ∈ cs, c.Valid ∧ c.len.toNat ≤ 2 ^ 31)
    {f pos : Nat} (r : List Byte) (hf : (recordsBytes cs ++ r).length ≤ f) :
    docRecords f pos (recordsBytes cs ++ r) =
      (docRecords r.length (pos + (recordsBytes cs).length) r).map (cs ++ ·) := by
  induction cs generalizing f pos with
  | nil =>
    refine (docRecords_fuel hf le_rfl).trans ?_
    exact (congrFun Except.map_id (docRecords r.length pos r)).symm
  | cons c cs ih =>
    obtain ⟨⟨hc, hceil⟩, hcs⟩ := List.forall_mem_cons.mp hcs
    have hlen := hc.chunkBytes_length
    rw [recordsBytes, List.append_assoc] at hf ⊢
    rw [List.length_append] at hf
    obtain ⟨g, rfl⟩ : ∃ g, f = g + 1 := ⟨f - 1, by omega⟩
    have hne : chunkBytes c ++ (recordsBytes cs ++ r) ≠ [] :=
      List.append_ne_nil_of_left_ne_nil (List.ne_nil_of_length_pos (by omega)) _
    rw [docRecords_turn hne, parseRecord_chunkBytes hc hceil]
    simp only [← hlen, List.drop_left]
    rw [ih hcs (by omega), List.length_append, Nat.add_assoc]
    cases docRecords r.length (pos + ((chunkBytes c).length + (recordsBytes cs).length)) r <;> rfl

/-- `doc_parse` of a document's bytes and more: the document's chunks, then what the loop makes of the rest. -/
theorem docParse_docBytes_append {cs : List Chunk} (hcs : ∀ c ∈ cs, c.Valid ∧ c.len.toNat ≤ 2 ^ 31) (r : List Byte) :
    docParse (docBytes cs ++ r) = (docRecords r.length (docBytes cs).length r).map (cs ++ ·) := by
  have hsplit : docBytes cs ++ r = signature ++ (recordsBytes cs ++ r) := List.append_assoc ..
  have hlen : (docBytes cs).length = 8 + (recordsBytes cs).length := List.length_append ..
  rw [hsplit, hlen]
  refine (if_pos (List.take_left : (signature ++ _).take signature.length = _)).trans ?_
  exact docRecords_recordsBytes_append hcs r (List.suffix_append signature _).length_le

/-- A document of valid chunks within the ceiling parses back (R235 (b)). -/
theorem docParse_docBytes {cs : List Chunk} (hcs : ∀ c ∈ cs, c.Valid ∧ c.len.toNat ≤ 2 ^ 31) :
    docParse (docBytes cs) = .ok cs := by
  have h := docParse_docBytes_append hcs []
  rwa [List.append_nil, docRecords_nil, Except.map, List.append_nil] at h

/-! ### A buffer that does not parse -/

theorem docParse_of_no_signature {s : List Byte} (h : s.take 8 ≠ signature) :
    docParse s = .error (.badSignature, 0) := if_neg h

/-- The loop fails where it stands when the bytes there are no record (R233). -/
theorem docRecords_of_refused {pos : Nat} {r : List Byte} {e : Code} (hr : r ≠ []) (he : parseRecord r = .error e) :
    docRecords r.length pos r = .error (e, pos) := by
  cases r with
  | nil => exact absurd rfl hr
  | cons b rest => rw [List.length_cons, docRecords_turn hr, he]

/-- Behind a document's bytes, a record that fails decides (R233, R234). -/
theorem docParse_docBytes_append_of_refused {cs : List Chunk} (hcs : ∀ c ∈ cs, c.Valid ∧ c.len.toNat ≤ 2 ^ 31)
    {r : List Byte} {e : Code} (hr : r ≠ []) (he : parseRecord r = .error e) :
    docParse (docBytes cs ++ r) = .error (e, (docBytes cs).length) := by
  rw [docParse_docBytes_append hcs, docRecords_of_refused hr he, Except.map]

/-- A failing `doc_parse` with the signature in place fails by a record. -/
theorem docParse_error_ne_badSignature {s : List Byte} {e : Code} {off : Nat} (hsig : s.take 8 = signature)
    (h : docParse s = .error (e, off)) : e ≠ .badSignature := by
  rw [docParse, if_pos hsig] at h
  rintro rfl
  simpa using (docRecords_error h).1

end Sys2Proof.Machine
end

section
/-! PROOFS (statements of 43_document). Lookup as the smallest index of the type, and what it gives of a sequence with
one chunk more (spec 43_document R236, R238, R239). -/

namespace Sys2Proof.Machine

section
variable {cs : List Chunk} {k : Quad} {i : Nat} {c : Chunk}

/-! ### Lookup -/

/-- No chunk before the one found has the key as its type. -/
theorem findFirst_before (h : findFirst cs k = some (i, c)) {j : Nat} {d : Chunk} (hj : j < i)
    (hd : cs[j]? = some d) : d.typ ≠ k := by
  induction cs generalizing i j with
  | nil => cases h
  | cons e es ih =>
    simp only [findFirst] at h
    split_ifs at h with he
    · cases h
      cases hj
    · cases hr : findFirst es k with
      | none => simp [hr] at h
      | some p =>
        obtain ⟨n, c'⟩ := p
        simp only [hr, Option.some.injEq, Prod.mk.injEq] at h
        obtain ⟨rfl, rfl⟩ := h
        cases j with
        | zero => cases hd; exact he
        | succ j => exact ih hr (by omega) hd

/-- `find_first` is the smallest index of the type (R236): such an index is unique. -/
theorem findFirst_eq_some :
    findFirst cs k = some (i, c) ↔ cs[i]? = some c ∧ c.typ = k ∧ ∀ j d, j < i → cs[j]? = some d → d.typ ≠ k := by
  refine ⟨fun h => ⟨findFirst_getElem? h, (findFirst_mem h).2, fun j d => findFirst_before h⟩, ?_⟩
  rintro ⟨hget, htyp, hbefore⟩
  cases hf : findFirst cs k with
  | none => exact absurd htyp (findFirst_none.mp hf c (List.mem_of_getElem? hget))
  | some p =>
    obtain ⟨n, d⟩ := p
    have hn := findFirst_getElem? hf
    obtain hlt | rfl | hgt := Nat.lt_trichotomy n i
    · exact absurd (findFirst_mem hf).2 (hbefore n d hlt hn)
    · rw [Option.some.inj (hn.symm.trans hget)]
    · exact absurd htyp (findFirst_before hf hgt hget)

theorem findFirst_lt_length (h : findFirst cs k = some (i, c)) : i < cs.length :=
  (List.getElem?_eq_some_iff.mp (findFirst_getElem? h)).1

/-- A key that is no type code matches no valid chunk (R236). -/
theorem findFirst_of_nonLetter (hcs : ∀ c ∈ cs, c.Valid) (hk : isTypeCode k = false) : findFirst cs k = none := by
  refine findFirst_none.mpr fun c hc htyp => ?_
  rw [← htyp, (hcs c hc).letters] at hk
  cases hk

/-! ### Lookup and removal behind an append -/

/-- The chunks appended do not change what is found. -/
theorem findFirst_append_of_some (h : findFirst cs k = some (i, c)) (ds : List Chunk) :
    findFirst (cs ++ ds) k = some (i, c) := by
  have hi := findFirst_lt_length h
  refine findFirst_eq_some.mpr ⟨?_, (findFirst_mem h).2, fun j d hj hd => findFirst_before h hj ?_⟩
  · rw [List.getElem?_append_left hi, findFirst_getElem? h]
  · rwa [List.getElem?_append_left (hj.trans hi)] at hd

/-- Where the type was not there, the appended chunk is found, at the end. -/
theorem findFirst_append_self (h : ∀ d ∈ cs, d.typ ≠ c.typ) :
    findFirst (cs ++ [c]) c.typ = some (cs.length, c) := by
  refine findFirst_eq_some.mpr ⟨List.getElem?_concat_length, rfl, fun j d hj hd => h d ?_⟩
  rw [List.getElem?_append_left hj] at hd
  exact List.mem_of_getElem? hd

theorem withoutIndex_append_of_lt (h : i < cs.length) (ds : List Chunk) :
    withoutIndex (cs ++ ds) i = withoutIndex cs i ++ ds := by
  simp only [withoutIndex, ← List.eraseIdx_eq_take_drop_succ]
  exact List.eraseIdx_append_of_lt_length h ds

theorem withoutIndex_append_length (cs : List Chunk) (c : Chunk) : withoutIndex (cs ++ [c]) cs.length = cs := by
  simp [withoutIndex]

/-- `remove` takes out what `find_first` finds (R238). -/
theorem removeFirst_eq_some {rest : List Chunk} :
    removeFirst cs k = some (i, c, rest) ↔ findFirst cs k = some (i, c) ∧ rest = withoutIndex cs i := by
  cases hf : findFirst cs k with
  | none => simp [removeFirst, hf]
  | some p =>
    simp only [removeFirst, hf, Option.some.injEq, Prod.ext_iff, and_assoc]
    refine and_congr_right fun hi => and_congr_right fun _ => ?_
    rw [hi, eq_comm]

end

end Sys2Proof.Machine
end

section
/-! PROOFS (statements of 43_document). The capacities as bounds (spec 00_scope R5, 10_state R32). -/

namespace Sys2Proof.Machine

theorem exceeds_eq_true {n : Nat} {cap : Option Nat} : exceeds n cap = true ↔ ∃ m, cap = some m ∧ m < n := by
  cases cap <;> simp

theorem exceeds_eq_false {n : Nat} {cap : Option Nat} : exceeds n cap = false ↔ ∀ m, cap = some m → n ≤ m := by
  cases cap <;> simp

theorem dataTotal_eq_sum (cs : List Chunk) : dataTotal cs = (cs.map fun c => c.len.toNat).sum := by
  induction cs with
  | nil => rfl
  | cons c cs ih => rw [dataTotal, ih, List.map_cons, List.sum_cons]

/-- The three capacities DOC.PARSE tests, one of them passed (R245). -/
theorem passesCapacity_eq_true {cfg : Config} {cs : List Chunk} :
    passesCapacity cfg cs = true ↔
      exceeds cs.length cfg.docChunksMax = true ∨ exceeds (dataTotal cs) cfg.docDataMax = true ∨
        ∃ c ∈ cs, cfg.chDataMax < c.len.toNat := by
  simp [passesCapacity, or_assoc]

end Sys2Proof.Machine
end

section
/-! PROOFS (statements of 43_document). How each document command ends, check by check (spec 43_document R245 to
R250). -/

namespace Sys2Proof.Machine

section
variable {s : State} {cs : List Chunk} {c : Chunk} {key : Quad} {i : Nat}

/-! ### DOC.PARSE -/

theorem exec_docParse_of_out (h : s.cfg.imemSize < s.a0 + s.a1) : exec .docParse s = raise .badOperand s :=
  (withSlice_of_out _ h : execDocParse s = _)

theorem exec_docParse_of_error {e : Code} {off : Nat} (hin : s.a0 + s.a1 ≤ s.cfg.imemSize)
    (hp : docParse (s.imem.readBytes s.a0 s.a1) = .error (e, off)) :
    exec .docParse s = raise e ((s.setDoc none).setEaddr (s.a0 + off)) := by
  refine (withSlice_of_in _ hin : execDocParse s = _).trans ?_
  rw [hp]

theorem exec_docParse_of_ok (hin : s.a0 + s.a1 ≤ s.cfg.imemSize)
    (hp : docParse (s.imem.readBytes s.a0 s.a1) = .ok cs) :
    exec .docParse s =
      if passesCapacity s.cfg cs then raise .storeFull s
      else completeOk ((s.setDoc (some cs)).setRes cs.length) := by
  refine (withSlice_of_in _ hin : execDocParse s = _).trans ?_
  rw [hp]

/-! ### With DOC empty -/

/-- Every command that takes DOC as an operand refuses (R282). -/
theorem exec_of_doc_empty (hd : s.doc = none) {is : List Instr}
    (his : is ⊆ [.docCount, .docGet, .docFind, .docAppend, .docRemove, .docEmit]) :
    ∀ i ∈ is, exec i s = raise .noValue s := by
  intro i hi
  have hmem := his hi
  fin_cases hmem <;> exact withDoc_none _ hd

/-! ### DOC.COUNT and DOC.GET -/

theorem exec_docCount_of_some (hd : s.doc = some cs) :
    exec .docCount s = completeOk (s.setRes (countValue s.cfg cs.length)) :=
  (withDoc_some _ hd : execDocCount s = _)

theorem exec_docGet_of_out (hd : s.doc = some cs) (h : cs.length ≤ s.a0) :
    exec .docGet s = raise .badOperand s := by
  refine (withDoc_some _ hd : execDocGet s = _).trans ?_
  rw [List.getElem?_eq_none h]

theorem exec_docGet_of_some (hd : s.doc = some cs) (hc : cs[s.a0]? = some c) :
    exec .docGet s = completeOk ((s.setCh (some c)).setRes c.len.toNat) := by
  refine (withDoc_some _ hd : execDocGet s = _).trans ?_
  rw [hc]

/-! ### DOC.FIND and DOC.REMOVE -/

theorem exec_docFind_of_wide (hd : s.doc = some cs) (h : 2 ^ 32 ≤ s.a0) : exec .docFind s = raise .badOperand s :=
  (withDoc_some _ hd : execDocFind s = _).trans (withPacked_of_wide _ h)

theorem exec_docRemove_of_wide (hd : s.doc = some cs) (h : 2 ^ 32 ≤ s.a0) :
    exec .docRemove s = raise .badOperand s :=
  (withDoc_some _ hd : execDocRemove s = _).trans (withPacked_of_wide _ h)

theorem exec_docFind_of_found (hd : s.doc = some cs) (hkey : s.a0 = (fromBe32 key).toNat)
    (hf : findFirst cs key = some (i, c)) :
    exec .docFind s = completeOk ((s.setCh (some c)).setRes (countValue s.cfg i)) := by
  refine (withDoc_some _ hd : execDocFind s = _).trans ?_
  rw [withPacked_of_quad _ hkey, hf]

theorem exec_docFind_of_absent (hd : s.doc = some cs) (hkey : s.a0 = (fromBe32 key).toNat)
    (hf : findFirst cs key = none) :
    exec .docFind s = completeOk ((s.setCh none).setRes (countValue s.cfg cs.length)) := by
  refine (withDoc_some _ hd : execDocFind s = _).trans ?_
  rw [withPacked_of_quad _ hkey, hf]

theorem exec_docRemove_of_found (hd : s.doc = some cs) (hkey : s.a0 = (fromBe32 key).toNat)
    (hf : findFirst cs key = some (i, c)) :
    exec .docRemove s =
      completeOk (((s.setCh (some c)).setDoc (some (withoutIndex cs i))).setRes (countValue s.cfg i)) := by
  refine (withDoc_some _ hd : execDocRemove s = _).trans ?_
  rw [withPacked_of_quad _ hkey, removeFirst_eq_some.mpr ⟨hf, rfl⟩]

theorem exec_docRemove_of_absent (hd : s.doc = some cs) (hkey : s.a0 = (fromBe32 key).toNat)
    (hf : findFirst cs key = none) : exec .docRemove s = raise .chunkNotFound (s.setCh none) := by
  refine (withDoc_some _ hd : execDocRemove s = _).trans ?_
  rw [withPacked_of_quad _ hkey, removeFirst, hf]

/-! ### DOC.APPEND -/

theorem exec_docAppend_of_ch_empty (hc : s.ch = none) : exec .docAppend s = raise .noValue s := by
  obtain ⟨-, h⟩ | ⟨cs, c, -, hc', -⟩ := execDocAppend_cases s
  · exact h
  · cases hc.symm.trans hc'

/-- With both operands there, the two capacities decide. -/
theorem exec_docAppend_of_some (hd : s.doc = some cs) (hc : s.ch = some c) :
    exec .docAppend s =
      if exceeds (cs.length + 1) s.cfg.docChunksMax || exceeds (dataTotal cs + c.len.toNat) s.cfg.docDataMax then
        raise .storeFull s
      else completeOk (((s.setDoc (some (cs ++ [c]))).setCh none).setRes (countValue s.cfg (cs.length + 1))) :=
  (withDoc_some _ hd : execDocAppend s = _).trans (withCh_some _ hc)

theorem exec_docAppend_of_full (hd : s.doc = some cs) (hc : s.ch = some c)
    (h : exceeds (cs.length + 1) s.cfg.docChunksMax = true ∨
      exceeds (dataTotal cs + c.len.toNat) s.cfg.docDataMax = true) :
    exec .docAppend s = raise .storeFull s :=
  (exec_docAppend_of_some hd hc).trans (if_pos ((Bool.or_eq_true ..).mpr h))

theorem exec_docAppend_of_fits (hd : s.doc = some cs) (hc : s.ch = some c)
    (hcount : exceeds (cs.length + 1) s.cfg.docChunksMax = false)
    (htotal : exceeds (dataTotal cs + c.len.toNat) s.cfg.docDataMax = false) :
    exec .docAppend s =
      completeOk (((s.setDoc (some (cs ++ [c]))).setCh none).setRes (countValue s.cfg (cs.length + 1))) := by
  rw [exec_docAppend_of_some hd hc, hcount, htotal]
  rfl

end

end Sys2Proof.Machine
end

section
open Sys2Proof Sys2Proof.Machine

/-- Settles O33: a successful loop's bytes are its chunks' records (`docBytes_of_docParse`), and records of valid chunks
are read off one by one (`docParse_docBytes`). -/
theorem documentRoundTrip : Obligations.DocumentRoundTrip :=
  ⟨fun _ _ => docBytes_of_docParse, fun _ => docParse_docBytes⟩

/-- Settles O34: records in front are read off and the first that fails decides
(`docParse_docBytes_append_of_refused`); with the signature in place nothing else fails (`docParse_failsAfter`). -/
theorem firstBadRecordDecides : Obligations.FirstBadRecordDecides := by
  refine ⟨fun s => docParse_of_no_signature, fun cs r e hcs hr he => ?badRecord, fun s e off h => ?onlyWays⟩
  case badRecord =>
    rw [← docBytes_length fun c hc => (hcs c hc).1]
    exact docParse_docBytes_append_of_refused hcs hr he
  case onlyWays =>
    by_cases hsig : s.take 8 = signature
    · obtain ⟨cs, r, hfails, hs, hoff⟩ := docParse_failsAfter h (docParse_error_ne_badSignature hsig h)
      exact .inr ⟨cs, r, hfails.before, hs, hfails.nonempty, hfails.refused, hoff⟩
    · cases (docParse_of_no_signature hsig).symm.trans h
      exact .inl ⟨rfl, rfl, hsig⟩

/-- Settles O35: what is found is at a smallest index of the type, which is unique (`findFirst_eq_some`). -/
theorem findFirstIsTheSmallestIndex : Obligations.FindFirstIsTheSmallestIndex :=
  ⟨fun _ _ _ _ => findFirst_eq_some, fun _ _ => findFirst_of_nonLetter⟩

/-- Settles O36: an append leaves what was found where it was, and else puts the chunk where it is found
(`findFirst_append_of_some`, `findFirst_append_self`). -/
theorem appendThenRemove : Obligations.AppendThenRemove := by
  refine ⟨fun cs c habsent => ?absent, fun cs c i d rest h => ?present,
    fun s cs c hd hc habsent hcount htotal => ?commands, fun s cs k hd hkey habsent => ?notFound⟩
  case absent =>
    exact removeFirst_eq_some.mpr ⟨findFirst_append_self habsent, (withoutIndex_append_length cs c).symm⟩
  case present =>
    obtain ⟨hf, rfl⟩ := removeFirst_eq_some.mp h
    exact removeFirst_eq_some.mpr
      ⟨findFirst_append_of_some hf [c], (withoutIndex_append_of_lt (findFirst_lt_length hf) [c]).symm⟩
  case commands =>
    refine ⟨_, _, exec_docAppend_of_fits hd hc hcount htotal,
      exec_docRemove_of_found rfl rfl (findFirst_append_self habsent), rfl, rfl, ?_⟩
    exact congrArg some (withoutIndex_append_length cs c)
  case notFound =>
    have hf := findFirst_none.mpr habsent
    exact ⟨⟨_, exec_docFind_of_absent hd hkey hf, rfl, rfl, rfl⟩,
      ⟨_, exec_docRemove_of_absent hd hkey hf, rfl, rfl, rfl⟩⟩

/-- Settles O37: the word is the encoder's; a slice in bounds ends as `doc_parse` of it says, then the capacities. -/
theorem docParseLoadsOrEmptiesDoc : Obligations.DocParseLoadsOrEmptiesDoc := by
  refine ⟨decode_encode .docParse, fun s => ⟨exec_docParse_of_out, fun hin e off hp => exec_docParse_of_error hin hp,
    fun hin cs hp => ?parsed⟩⟩
  simp only [← dataTotal_eq_sum, ← exceeds_eq_true, ← exceeds_eq_false]
  refine ⟨fun hfull => ?full, fun hcount htotal hfits => ?loaded⟩
  case full => exact (exec_docParse_of_ok hin hp).trans (if_pos (passesCapacity_eq_true.mpr hfull))
  case loaded =>
    rw [exec_docParse_of_ok hin hp, passesCapacity_eq_false.mpr ⟨hcount, htotal, hfits⟩]
    rfl

/-- Settles O38: the words are the encoder's; a count in RES fits AW bits, and is itself where it fits. -/
theorem documentReads : Obligations.DocumentReads := by
  refine ⟨decode_encode .docCount, decode_encode .docGet, fun s => ⟨fun hd => ?empty, fun cs hd =>
    ⟨⟨_, exec_docCount_of_some hd, countValue_fits .., countValue_of_fits⟩, exec_docGet_of_out hd,
      fun c => exec_docGet_of_some hd⟩⟩⟩
  case empty => exact exec_of_doc_empty hd (by decide)

/-- Settles O39: the words are the encoder's; each command is cited check by check, and an index or count in RES fits AW
bits, and is itself where it fits. -/
theorem documentStoreOperations : Obligations.DocumentStoreOperations := by
  refine ⟨decode_encode .docFind, decode_encode .docAppend, decode_encode .docRemove, fun s => ⟨fun hd => ?empty,
    exec_docAppend_of_ch_empty, fun cs hd => ⟨fun hwide => ?wide, fun key i c hkey hf => ?found,
      fun key hkey hf => ?absent, fun c hc => ?append⟩⟩⟩
  case empty => exact exec_of_doc_empty hd (by decide)
  case wide =>
    simp only [List.forall_mem_cons]
    exact ⟨exec_docFind_of_wide hd hwide, exec_docRemove_of_wide hd hwide, List.forall_mem_nil _⟩
  case found =>
    exact ⟨_, countValue_fits .., countValue_of_fits, exec_docFind_of_found hd hkey hf,
      exec_docRemove_of_found hd hkey hf⟩
  case absent =>
    exact ⟨exec_docRemove_of_absent hd hkey hf, _, countValue_fits .., countValue_of_fits,
      exec_docFind_of_absent hd hkey hf⟩
  case append =>
    simp only [← dataTotal_eq_sum, ← exceeds_eq_true, ← exceeds_eq_false]
    exact ⟨exec_docAppend_of_full hd hc, fun hcount htotal =>
      ⟨_, countValue_fits .., countValue_of_fits, exec_docAppend_of_fits hd hc hcount htotal⟩⟩

end

section
/-! PROOFS (statements of 44_system). The host's reads and its accesses to the memories in one step (spec 44_system
R273, R274), and which ends of a command leave DOC without a value (R271). -/

namespace Sys2Proof.Machine

section
variable {s : State} {rest : List HostOp}

/-! ### Register reads -/

theorem exists_readRegister {n : Nat} (s : State) (hn : n < 8) : ∃ v, readRegister n s = some v := by
  interval_cases n <;> exact ⟨_, rfl⟩

theorem readRegister_setPending (n : Nat) (s : State) (ops : List HostOp) :
    readRegister n (s.setPending ops) = readRegister n s := rfl

/-- A step that reads a register answers the register's value (R273). -/
theorem step_of_read {n v : Nat} (hp : s.pending = .rd n :: rest) (hv : readRegister n s = some v) :
    step s = answer (.value v) (s.setPending rest) := by
  rw [step_of_pending hp, hostStep, readRegister_setPending, hv]

/-! ### Accesses inside a memory and outside it (R274) -/

theorem step_of_writeImem_in {a : Nat} {bs : List Byte} (hp : s.pending = .writeImem a bs :: rest)
    (hin : a + bs.length ≤ s.cfg.imemSize) :
    step s = .next ((s.setPending rest).setImem (s.imem.writeBytes a bs)) :=
  (step_of_pending hp).trans (if_pos hin)

theorem step_of_writeImem_out {a : Nat} {bs : List Byte} (hp : s.pending = .writeImem a bs :: rest)
    (hout : s.cfg.imemSize < a + bs.length) : step s = .refused .outsideMemory :=
  (step_of_pending hp).trans (if_neg (Nat.not_le.mpr hout))

theorem step_of_readImem_in {a n : Nat} (hp : s.pending = .readImem a n :: rest) (hin : a + n ≤ s.cfg.imemSize) :
    step s = answer (.bytes (s.imem.readBytes a n)) (s.setPending rest) :=
  (step_of_pending hp).trans (if_pos hin)

theorem step_of_readImem_out {a n : Nat} (hp : s.pending = .readImem a n :: rest) (hout : s.cfg.imemSize < a + n) :
    step s = .refused .outsideMemory :=
  (step_of_pending hp).trans (if_neg (Nat.not_le.mpr hout))

theorem step_of_readOmem_in {a b : Nat} (hp : s.pending = .readOmem a b :: rest) (hab : a ≤ b)
    (hin : b ≤ s.cfg.omemSize) :
    step s = answer (.bytes (s.omem.readBytes a (b - a))) (s.setPending rest) :=
  (step_of_pending hp).trans (if_pos ⟨hab, hin⟩)

theorem step_of_readOmem_out {a b : Nat} (hp : s.pending = .readOmem a b :: rest) (hout : s.cfg.omemSize < b) :
    step s = .refused .outsideMemory :=
  (step_of_pending hp).trans (if_neg fun h => Nat.not_le.mpr hout h.2)

/-- Byte j of `MemRead(a, n)` is the byte at `a + j` (R63). -/
theorem Memory.readBytes_getElem (m : Memory) (a n j : Nat) (h : j < (m.readBytes a n).length) :
    (m.readBytes a n)[j] = m.readByte (a + j) := by
  have hj : j < n := m.readBytes_length a n ▸ h
  rw [List.getElem_eq_iff, Memory.readBytes_getElem?, if_pos hj]

/-! ### What no other operation changes -/

/-- Of the host's operations only a command and a hardware reset can change OMEM (R274). -/
theorem step_omem_kept {t : State} {op : HostOp} (hp : s.pending = op :: rest) (hcmd : ∀ w, op ≠ .wr 0 w)
    (hreset : ∀ im om, op ≠ .hardReset im om) (h : step s = .next t) : t.omem = s.omem := by
  rw [step_of_pending hp] at h
  rcases hostStep_next h with ⟨w, rfl, -⟩ | ⟨v, -, -, rfl⟩ | ⟨v, -, -, rfl⟩ | ⟨v, -, -, rfl⟩ | ⟨n, v, -, -, rfl⟩ |
    ⟨a, bs, -, -, rfl⟩ | ⟨ans, rfl⟩ | ⟨im, om, rfl, -⟩
  exacts [absurd rfl (hcmd w), rfl, rfl, rfl, rfl, rfl, rfl, absurd rfl (hreset im om)]

/-- Only SYS.RESET and a failing DOC.PARSE empty a DOC that holds a value (R271). -/
theorem Ends.doc_emptied {t : State} {i : Instr} (h : Ends s i t) (hs : s.doc ≠ none) (ht : t.doc = none) :
    i = .sysReset ∨ i = .docParse ∧ t.code ≠ .ok := by
  cases h with
  | reset => exact .inl rfl
  | unparsedDoc he => exact .inr ⟨rfl, (docParse_error_not_refusal he).1⟩
  | loadedDoc | appended | removed => cases ht
  | _ => exact absurd ht hs

end

end Sys2Proof.Machine
end

section
open Sys2Proof Sys2Proof.Machine

/-- Settles O8: an access passes its bound's test or is refused; what is read back after a write is the memory's own
law (`Memory.readByte_writeBytes_inside`, `Memory.readByte_writeBytes_outside`). -/
theorem hostMemoryAccess : Obligations.HostMemoryAccess := by
  refine ⟨fun s rest a bs hp hwf => ⟨fun hin => ?write, step_of_writeImem_out hp⟩,
    fun s rest a n hp => ⟨fun hin => ?readImem, step_of_readImem_out hp⟩,
    fun s rest a b hp => ⟨fun hab hin => ?readOmem, step_of_readOmem_out hp⟩,
    fun s t op rest => step_omem_kept⟩
  case write =>
    exact ⟨_, step_of_writeImem_in hp hin, rfl, fun j h => Memory.readByte_writeBytes_inside hwf h,
      fun x hx => Memory.readByte_writeBytes_outside hwf hx⟩
  case readImem => exact ⟨_, step_of_readImem_in hp hin, s.imem.readBytes_length a n, s.imem.readBytes_getElem a n⟩
  case readOmem =>
    exact ⟨_, step_of_readOmem_in hp hab hin, s.omem.readBytes_length a (b - a), s.omem.readBytes_getElem a (b - a)⟩

/-- Settles O12: the words are the encoder's; of the ways a command ends, two leave DOC empty (`Ends.doc_emptied`). -/
theorem systemCommands : Obligations.SystemCommands :=
  ⟨decode_encode .sysNop, decode_encode .sysReset, fun _ _ _ h => (exec_ends h).doc_emptied,
    fun s => ⟨rfl, completeOk_next.mpr s.softReset_eq.symm⟩⟩

/-- Settles O4: `withFetchWord` puts the word where a step takes its operation from. -/
theorem stepRunsTheDecodedCommand : Obligations.StepRunsTheDecodedCommand :=
  ⟨fun _ _ _ _ => step_of_legal, fun _ _ _ _ => step_of_illegal,
    fun s w _ => step_of_legal (s := s.withFetchWord 32 w) rfl⟩

/-- Settles O5: a write is `writeRegister` at its number (`step_of_write`). -/
theorem hostRegisterWrites : Obligations.HostRegisterWrites := by
  intro s rest n v hp hv
  refine ⟨?legal, ?illegal, ?a0, ?a1, ?optr, ?readOnly⟩
  case legal =>
    rintro rfl i
    exact step_of_legal hp hv
  case illegal =>
    rintro rfl e
    exact step_of_illegal hp hv
  case readOnly => rintro (rfl | rfl | rfl | rfl) <;> exact step_of_write hp hv
  all_goals
    rintro rfl
    exact step_of_write hp hv

/-- Settles O6: each of the eight numbers names a register (`exists_readRegister`), and the answer is what
`readRegister` gives for that number (`step_of_read`). -/
theorem hostRegisterReads : Obligations.HostRegisterReads := by
  intro s rest n hp hn
  obtain ⟨v, hv⟩ := exists_readRegister s hn
  refine ⟨v, step_of_read hp hv, ?_, ?_, ?_, ?_, ?_, ?_, ?_, ?_⟩
  all_goals
    rintro rfl
    exact (Option.some.inj hv).symm

end

section
/-! PROOFS (statements of 60_exceptions). The codes of a command's ends, what a failing end has written, and the
consumers of an empty holding register (spec 60_exceptions R281 to R285, R290). -/

namespace Sys2Proof.Machine

/-! ### The codes of a command (R285) -/

theorem ok_possible (i : Instr) : Code.ok ∈ possibleCodes i := by
  cases i <;> simp [possibleCodes]

theorem notUtf8_not_possible (i : Instr) : Code.notUtf8 ∉ possibleCodes i := by
  cases i <;> simp [possibleCodes]

theorem badCommand_not_possible (i : Instr) : Code.badCommand ∉ possibleCodes i := by
  cases i <;> simp [possibleCodes]

theorem parseRecord_error_possible {bytes : List Byte} {e : Code} (h : parseRecord bytes = .error e) :
    e ∈ possibleCodes .chParse := by
  rcases parseRecord_error h with rfl | rfl | rfl | rfl <;> decide

theorem docParse_error_possible {bytes : List Byte} {e : Code} {off : Nat} (h : docParse bytes = .error (e, off)) :
    e ∈ possibleCodes .docParse := by
  rcases docParse_error h with ⟨rfl, -⟩ | ⟨rfl | rfl | rfl | rfl, -⟩ <;> decide

theorem invalidTypeCode_possible_of_constructor :
    ∀ i ∈ [Instr.tcSet4, .tcSets], Code.invalidTypeCode ∈ possibleCodes i := by decide

/-- The refusals as the statements list them (R282). -/
theorem Code.isRefusal_iff_mem (c : Code) :
    c.isRefusal = true ↔ c ∈ [Code.badCommand, .badOperand, .noValue, .storeFull] := by
  cases c <;> decide

/-- A code the hardware produces is OK, a refusal or one of the six source-defined codes (R281, R282). -/
theorem Code.source_defined {c : Code} (hok : c ≠ .ok) (hutf : c ≠ .notUtf8) (href : c.isRefusal = false) :
    c ∈ [Code.invalidTypeCode, .truncatedChunk, .oversizedChunk, .crcMismatch, .badSignature, .chunkNotFound] := by
  cases c with
  | ok => exact absurd rfl hok
  | notUtf8 => exact absurd rfl hutf
  | badCommand | badOperand | noValue | storeFull => cases href
  | _ => decide

section
variable {s t : State} {i : Instr}

theorem Ends.code_mem_possibleCodes (h : Ends s i t) : t.code ∈ possibleCodes i := by
  cases h with
  | refused _ hrow => exact hrow
  | mismatched | notFound => simp [possibleCodes]
  | emptiedT hi => exact invalidTypeCode_possible_of_constructor i hi
  | unparsedCh he => exact parseRecord_error_possible he
  | unparsedDoc he => exact docParse_error_possible he
  | _ => exact ok_possible _

/-! ### What a failing command has written (R283) -/

/-- A refusal writes CODE and RES alone: no other end has a refusal's code. -/
theorem Ends.refusal (h : Ends s i t) (href : t.code.isRefusal = true) :
    t = { s with code := t.code, res := 0 } := by
  cases h with
  | refused => rfl
  | unparsedCh he => exact absurd href (Bool.eq_false_iff.mp (parseRecord_error_not_refusal he).2)
  | unparsedDoc he => exact absurd href (Bool.eq_false_iff.mp (docParse_error_not_refusal he).2)
  | _ => cases href

/-- A source-defined failure empties the command's own result register besides, and may write EADDR. -/
theorem Ends.sourceFailure (h : Ends s i t) (hok : t.code ≠ .ok) (href : t.code.isRefusal = false) :
    t = { s with
      code := t.code, res := 0, eaddr := t.eaddr
      t := if i = .tcSet4 ∨ i = .tcSets then none else s.t
      ch := if i = .chParse ∨ i = .docRemove then none else s.ch
      doc := if i = .docParse then none else s.doc } := by
  cases h with
  | refused hc => exact absurd hc (Bool.eq_false_iff.mp href)
  | emptiedT hi => fin_cases hi <;> rfl
  | mismatched | unparsedCh | unparsedDoc | notFound => rfl
  | _ => exact absurd rfl hok

theorem Ends.eaddr_kept_of_fail (h : Ends s i t) (hok : t.code ≠ .ok) (hch : i ≠ .chParse) (hdoc : i ≠ .docParse) :
    t.eaddr = s.eaddr := by
  cases h with
  | reset => exact absurd rfl hok
  | unparsedCh => exact absurd rfl hch
  | unparsedDoc => exact absurd rfl hdoc
  | _ => rfl

theorem Ends.res_of_fail (h : Ends s i t) (hok : t.code ≠ .ok) : t.res = 0 := by
  cases href : t.code.isRefusal with
  | true => rw [h.refusal href]
  | false => rw [h.sourceFailure hok href]

/-! ### The consumers of an empty holding register (R282, R284 item 2) -/

/-- Every command that takes T as an operand refuses. -/
theorem exec_of_t_empty (ht : s.t = none) :
    ∀ i ∈ [Instr.tcBytes, .tcIsCrit, .tcIsPub, .tcIsRsv, .tcIsSafe, .tcIsValid, .tcRender, .chNew],
      exec i s = raise .noValue s := by
  intro i hi
  fin_cases hi <;> exact withT_none _ ht

/-- Every command that takes CH as an operand refuses; DOC.APPEND does so whether DOC holds a value or not. -/
theorem exec_of_ch_empty (hc : s.ch = none) :
    ∀ i ∈ [Instr.chEmit, .chLen, .chData, .chType, .chCrc, .docAppend], exec i s = raise .noValue s := by
  simp only [List.forall_mem_cons]
  exact ⟨withCh_none _ hc, withCh_none _ hc, withCh_none _ hc, withCh_none _ hc, withCh_none _ hc,
    exec_docAppend_of_ch_empty hc, List.forall_mem_nil _⟩

end

end Sys2Proof.Machine
end

section
open Sys2Proof Sys2Proof.Machine

/-- Settles O46: each of the three registers is the operand of its consumers, and an empty one raises NoValue. -/
theorem emptyRegisterRefusesItsConsumers : Obligations.EmptyRegisterRefusesItsConsumers :=
  fun _ => ⟨exec_of_t_empty, exec_of_ch_empty, fun hd => exec_of_doc_empty hd (List.Subset.refl _)⟩

/-- Settles O42: the code of every end of a command is in its row (`Ends.code_mem_possibleCodes`). -/
theorem codesEachCommandCanProduce : Obligations.CodesEachCommandCanProduce :=
  ⟨fun _ _ _ h => (exec_ends h).code_mem_possibleCodes,
    fun i => ⟨notUtf8_not_possible i, badCommand_not_possible i⟩⟩

/-- Settles O41: an end with a code other than OK is a refusal (`Ends.refusal`) or a source-defined failure
(`Ends.sourceFailure`); an illegal word runs no command. -/
theorem failingCommandChangesOnlyItsResult : Obligations.FailingCommandChangesOnlyItsResult := by
  refine ⟨fun i s t h hok => ?command, fun w s e he => ?illegalWord⟩
  case command =>
    have hends := exec_ends h
    simp only [← Code.isRefusal_iff_mem, Bool.not_eq_true]
    refine ⟨hends.res_of_fail hok, hends.refusal, fun href => ⟨?sourceDefined, hends.sourceFailure hok href,
      hends.eaddr_kept_of_fail hok⟩⟩
    case sourceDefined =>
      have hutf : t.code ≠ .notUtf8 := fun hc => notUtf8_not_possible i (hc ▸ hends.code_mem_possibleCodes)
      exact Code.source_defined hok hutf href
  case illegalWord =>
    rw [issue, he]
    rfl

/-- Settles O47: the failure leaves the result register empty (`Ends.sourceFailure`), and so its consumers refuse. -/
theorem failedConstructorBlocksItsConsumers : Obligations.FailedConstructorBlocksItsConsumers := by
  intro i s t h hok href
  have hfail := (exec_ends h).sourceFailure hok href
  refine ⟨fun hi => ?t, fun hi => ?ch, fun hi => ?doc⟩
  case t => exact exec_of_t_empty ((congrArg State.t hfail).trans (if_pos hi))
  case ch => exact exec_of_ch_empty ((congrArg State.ch hfail).trans (if_pos hi))
  case doc =>
    exact exec_of_doc_empty ((congrArg State.doc hfail).trans (if_pos hi)) (List.Subset.refl _)

end

section
/-! PROOFS (statements of 60_exceptions). A command in a build and in the same build with its capacities lifted (spec
00_scope R5, 60_exceptions R284): each check but a capacity's goes the same way in both. -/

namespace Sys2Proof.Machine

/-- The same state in a build whose capacities are unbounded and whose OMEM has `n` bytes (R5). -/
def State.unbounded (s : State) (n : Nat) : State :=
  { s with cfg := { s.cfg with
      omemSize := n, chDataMax := 2 ^ 32 - 1, docChunksMax := none, docDataMax := none } }

/-- A completion code once no capacity is short. -/
def Code.withoutCapacity (c : Code) : Code := if c = .storeFull then .ok else c

/-- Both results go on, the second with the first's code but for the capacities: OK where the first has StoreFull. -/
def LiftsTo (r r' : Result) : Prop :=
  ∃ t u, r = .next t ∧ r' = .next u ∧ u.code = t.code.withoutCapacity

section
variable {s : State} {n : Nat}

/-! ### The shared operations -/

theorem lifts_completeOk (a b : State) : LiftsTo (completeOk a) (completeOk b) := ⟨_, _, rfl, rfl, rfl⟩

theorem lifts_raise {c : Code} (hc : c ≠ .storeFull) (a b : State) : LiftsTo (raise c a) (raise c b) :=
  ⟨_, _, rfl, rfl, (if_neg hc).symm⟩

/-- A capacity check that is passed in the large build, whether or not it is in the small one. -/
theorem lifts_capacity {p p' : Prop} [Decidable p] [Decidable p'] (hp : ¬ p') (a b a' b' : State) :
    LiftsTo (if p then raise .storeFull a else completeOk b) (if p' then raise .storeFull a' else completeOk b') := by
  rw [if_neg hp]
  split
  · exact ⟨_, _, rfl, rfl, rfl⟩
  · exact lifts_completeOk b b'

/-- A test of what the builds share. -/
theorem lifts_ite {p : Prop} [Decidable p] {r₁ r₂ r₁' r₂' : Result} (h₁ : LiftsTo r₁ r₁')
    (h₂ : ¬ p → LiftsTo r₂ r₂') : LiftsTo (if p then r₁ else r₂) (if p then r₁' else r₂') := by
  by_cases hp : p
  · rwa [if_pos hp, if_pos hp]
  · rw [if_neg hp, if_neg hp]
    exact h₂ hp

theorem lifts_withSlice {k k' : List Byte → Result} (hk : ∀ bytes, LiftsTo (k bytes) (k' bytes)) :
    LiftsTo (withSlice s k) (withSlice (s.unbounded n) k') :=
  lifts_ite (hk s.slice) fun _ => lifts_raise (by decide) _ _

theorem lifts_withWord {k k' : Word → Result} (hk : ∀ w, LiftsTo (k w) (k' w)) :
    LiftsTo (withWord s k) (withWord (s.unbounded n) k') :=
  lifts_ite (hk (BitVec.ofNat 32 s.a0)) fun _ => lifts_raise (by decide) _ _

theorem lifts_withPacked {k k' : Quad → Result} (hk : ∀ q, LiftsTo (k q) (k' q)) :
    LiftsTo (withPacked s k) (withPacked (s.unbounded n) k') :=
  lifts_withWord fun w => hk (be32 w)

theorem lifts_withT {k k' : Quad → Result} (hk : ∀ q, s.t = some q → LiftsTo (k q) (k' q)) :
    LiftsTo (withT s k) (withT (s.unbounded n) k') := by
  rcases withT_cases s k with ⟨h, e⟩ | ⟨q, h, e⟩ <;> rw [e]
  · exact (withT_none (s := s.unbounded n) k' h) ▸ lifts_raise (by decide) _ _
  · exact (withT_some (s := s.unbounded n) k' h) ▸ hk q h

theorem lifts_withCh {k k' : Chunk → Result} (hk : ∀ c, s.ch = some c → LiftsTo (k c) (k' c)) :
    LiftsTo (withCh s k) (withCh (s.unbounded n) k') := by
  rcases withCh_cases s k with ⟨h, e⟩ | ⟨c, h, e⟩ <;> rw [e]
  · exact (withCh_none (s := s.unbounded n) k' h) ▸ lifts_raise (by decide) _ _
  · exact (withCh_some (s := s.unbounded n) k' h) ▸ hk c h

theorem lifts_withDoc {k k' : List Chunk → Result} (hk : ∀ cs, s.doc = some cs → LiftsTo (k cs) (k' cs)) :
    LiftsTo (withDoc s k) (withDoc (s.unbounded n) k') := by
  rcases withDoc_cases s k with ⟨h, e⟩ | ⟨cs, h, e⟩ <;> rw [e]
  · exact (withDoc_none (s := s.unbounded n) k' h) ▸ lifts_raise (by decide) _ _
  · exact (withDoc_some (s := s.unbounded n) k' h) ▸ hk cs h

/-- An OMEM that holds the bytes is the capacity the output operation needs. -/
theorem lifts_emit {v : List Byte} (hv : s.optr + v.length ≤ n) : LiftsTo (emit v s) (emit v (s.unbounded n)) := by
  rcases emit_cases v (s.unbounded n) with ⟨h, -⟩ | ⟨-, e'⟩
  · exact absurd hv (Nat.not_le.mpr h)
  · rcases emit_cases v s with ⟨-, e⟩ | ⟨-, e⟩
    · exact ⟨_, _, e, e', rfl⟩
    · exact ⟨_, _, e, e', rfl⟩

theorem lifts_constructT (q : Quad) : LiftsTo (constructT q s) (constructT q (s.unbounded n)) :=
  lifts_ite (lifts_completeOk _ _) fun _ => lifts_raise (by decide) _ _

theorem lifts_readProperty (p : Quad → Bool) : LiftsTo (readProperty p s) (readProperty p (s.unbounded n)) :=
  lifts_withT fun _ _ => lifts_completeOk _ _

/-! ### The capacities of the large build -/

theorem not_storeFull_of_not_refusal {c : Code} (hc : c.isRefusal = false) : c ≠ .storeFull := by
  rintro rfl
  cases hc

/-- A 32-bit length never passes the largest CH_DATA_MAX (R5). -/
theorem Chunk.len_le_chDataMax (c : Chunk) : c.len.toNat ≤ 2 ^ 32 - 1 := Nat.le_pred_of_lt c.len.isLt

theorem passesCapacity_unbounded (cs : List Chunk) : passesCapacity (s.unbounded n).cfg cs = false :=
  passesCapacity_eq_false.mpr ⟨rfl, rfl, fun c _ => c.len_le_chDataMax⟩

/-! ### The commands with more than one check -/

theorem lifts_execTcSets : LiftsTo (execTcSets s) (execTcSets (s.unbounded n)) :=
  lifts_withSlice fun _ => lifts_ite (lifts_raise (by decide) _ _) fun _ => lifts_constructT _

theorem lifts_execCrcCheck : LiftsTo (execCrcCheck s) (execCrcCheck (s.unbounded n)) :=
  lifts_withWord fun _ => lifts_ite (lifts_completeOk _ _) fun _ => lifts_raise (by decide) _ _

/-- The length has been checked against 32 bits before it is against the capacity (R210). -/
theorem lifts_execChNew : LiftsTo (execChNew s) (execChNew (s.unbounded n)) :=
  lifts_withT fun _ _ => lifts_withSlice fun _ =>
    lifts_ite (p := 2 ^ 32 - 1 < s.a1) (lifts_raise (by decide) _ _) fun hlen => lifts_capacity hlen _ _ _ _

theorem lifts_execChParse : LiftsTo (execChParse s) (execChParse (s.unbounded n)) :=
  lifts_withSlice fun bytes => by
    cases hp : parseRecord bytes with
    | error e => exact lifts_raise (not_storeFull_of_not_refusal (parseRecord_error_not_refusal hp).2) _ _
    | ok p => exact lifts_capacity (Nat.not_lt.mpr p.1.len_le_chDataMax) _ _ _ _

theorem lifts_execDocParse : LiftsTo (execDocParse s) (execDocParse (s.unbounded n)) :=
  lifts_withSlice fun bytes => by
    cases hp : docParse bytes with
    | error e => exact lifts_raise (not_storeFull_of_not_refusal (docParse_error_not_refusal hp).2) _ _
    | ok cs => exact lifts_capacity (Bool.eq_false_iff.mp (passesCapacity_unbounded cs)) _ _ _ _

theorem lifts_execDocGet : LiftsTo (execDocGet s) (execDocGet (s.unbounded n)) :=
  lifts_withDoc fun cs _ => by
    rw [show (s.unbounded n).a0 = s.a0 from rfl]
    cases cs[s.a0]? with
    | none => exact lifts_raise (by decide) _ _
    | some c => exact lifts_completeOk _ _

theorem lifts_execDocFind : LiftsTo (execDocFind s) (execDocFind (s.unbounded n)) :=
  lifts_withDoc fun cs _ => lifts_withPacked fun key => by
    cases findFirst cs key <;> exact lifts_completeOk _ _

theorem lifts_execDocAppend : LiftsTo (execDocAppend s) (execDocAppend (s.unbounded n)) :=
  lifts_withDoc fun _ _ => lifts_withCh fun _ _ => lifts_capacity Bool.false_ne_true _ _ _ _

theorem lifts_execDocRemove : LiftsTo (execDocRemove s) (execDocRemove (s.unbounded n)) :=
  lifts_withDoc fun cs _ => lifts_withPacked fun key => by
    cases removeFirst cs key with
    | none => exact lifts_raise (by decide) _ _
    | some p => exact lifts_completeOk _ _

end

/-! ### Every command -/

/-- Where OMEM holds the command's output, lifting the capacities changes its code only from StoreFull to OK. -/
theorem lifts_exec {i : Instr} {s : State} {n : Nat} (hn : ∀ v, outputOf i s = some v → s.optr + v.length ≤ n) :
    LiftsTo (exec i s) (exec i (s.unbounded n)) := by
  cases i with
  | sysNop => exact lifts_completeOk _ _
  | sysReset => exact lifts_completeOk _ _
  | crcInit => exact lifts_completeOk _ _
  | crcByte b => exact lifts_completeOk _ _
  | crcBuf => exact lifts_withSlice fun _ => lifts_completeOk _ _
  | crcFin => exact lifts_completeOk _ _
  | crcCheck => exact lifts_execCrcCheck
  | tcSet4 => exact lifts_withPacked lifts_constructT
  | tcSets => exact lifts_execTcSets
  | tcBytes => exact lifts_withT fun _ _ => lifts_completeOk _ _
  | tcIsCrit => exact lifts_readProperty _
  | tcIsPub => exact lifts_readProperty _
  | tcIsRsv => exact lifts_readProperty _
  | tcIsSafe => exact lifts_readProperty _
  | tcIsValid => exact lifts_readProperty _
  | tcRender => exact lifts_withT fun _ ht => lifts_emit (hn _ (outputOf_tcRender ht))
  | chNew => exact lifts_execChNew
  | chParse => exact lifts_execChParse
  | chEmit => exact lifts_withCh fun _ hc => lifts_emit (hn _ (outputOf_chEmit hc))
  | chLen => exact lifts_withCh fun _ _ => lifts_completeOk _ _
  | chData => exact lifts_withCh fun _ hc => lifts_emit (hn _ (outputOf_chData hc))
  | chType => exact lifts_withCh fun _ _ => lifts_completeOk _ _
  | chCrc => exact lifts_withCh fun _ _ => lifts_completeOk _ _
  | docParse => exact lifts_execDocParse
  | docCount => exact lifts_withDoc fun _ _ => lifts_completeOk _ _
  | docGet => exact lifts_execDocGet
  | docFind => exact lifts_execDocFind
  | docAppend => exact lifts_execDocAppend
  | docRemove => exact lifts_execDocRemove
  | docEmit => exact lifts_withDoc fun _ hd => lifts_emit (hn _ (outputOf_docEmit hd))

end Sys2Proof.Machine
end

section
open Sys2Proof Sys2Proof.Machine

/-- Settles O48: check by check the two builds go the same way, but for a capacity's (`lifts_exec`). -/
theorem capacityOnlyTurnsSuccessIntoRefusal : Obligations.CapacityOnlyTurnsSuccessIntoRefusal := by
  intro i s t u n hn ht hu
  obtain ⟨t', u', ht', hu', hcode⟩ := lifts_exec hn
  obtain rfl : t = t' := Host.Outcome.next.inj (ht.symm.trans ht')
  obtain rfl : u = u' := Host.Outcome.next.inj (hu.symm.trans hu')
  exact ⟨fun hfull => hcode.trans (if_pos hfull), fun hfits => hcode.trans (if_neg hfits)⟩

end

section
/-! PROOFS (statements of 70_reset_and_hazards). The contents the hardware reset event brings, and the commands that
need no value in T, CH or DOC. -/

namespace Sys2Proof.Machine

/-- A memory made of given contents reads as them, as far as it goes (log entry 6). -/
theorem Memory.readByte_ofBytes {size x : Nat} {bytes : List Byte} {b : Byte} (hx : x < size)
    (hb : bytes[x]? = some b) : (Memory.ofBytes size bytes).readByte x = b := by
  obtain ⟨hlen, rfl⟩ := List.getElem?_eq_some_iff.mp hb
  have hin : x < (bytes.take size).length := List.length_take ▸ Nat.lt_min.mpr ⟨hx, hlen⟩
  calc (Memory.ofBytes size bytes).readByte x
      = (Memory.writeBytes [] 0 (bytes.take size)).readByte (0 + x) := by rw [Memory.ofBytes, Nat.zero_add]
    _ = (bytes.take size)[x] := Memory.readByte_writeBytes_inside rfl hin
    _ = bytes[x] := List.getElem_take

/-- R321's commands: the ones with no holding register among their operands. -/
def needsNoValue (i : Instr) : Prop :=
  i ∈ [Instr.sysNop, .sysReset, .crcInit, .crcBuf, .crcFin, .crcCheck, .tcSet4, .tcSets, .chParse, .docParse] ∨
    ∃ b, i = .crcByte b

/-- Every other command is a consumer of T, of CH or of DOC (R282). -/
theorem needsNoValue_or_consumer (i : Instr) :
    needsNoValue i ∨
      i ∈ [Instr.tcBytes, .tcIsCrit, .tcIsPub, .tcIsRsv, .tcIsSafe, .tcIsValid, .tcRender, .chNew] ∨
      i ∈ [Instr.chEmit, .chLen, .chData, .chType, .chCrc, .docAppend] ∨
      i ∈ [Instr.docCount, .docGet, .docFind, .docAppend, .docRemove, .docEmit] := by
  cases i with
  | crcByte b => exact .inl (.inr ⟨b, rfl⟩)
  | _ => simp [needsNoValue]

/-- With no value held a command that needs one refuses, whichever register it takes. -/
theorem exec_of_all_empty {s : State} (ht : s.t = none) (hc : s.ch = none) (hd : s.doc = none) {i : Instr}
    (hi : ¬ needsNoValue i) : exec i s = raise .noValue s := by
  rcases (needsNoValue_or_consumer i).resolve_left hi with h | h | h
  · exact exec_of_t_empty ht i h
  · exact exec_of_ch_empty hc i h
  · exact exec_of_doc_empty hd (List.Subset.refl _) i h

end Sys2Proof.Machine
end

section
open Sys2Proof Sys2Proof.Machine

/-- Settles O10: the event's step replaces the state by `State.hardReset`, which is R37's record around the contents the
event brings (`Memory.readByte_ofBytes`). -/
theorem hardwareResetFromAnyState : Obligations.HardwareResetFromAnyState := by
  intro s rest im om hp
  have hstep : step s = .next ((s.setPending rest).hardReset im om) := step_of_pending hp
  exact ⟨_, hstep, rfl, fun _ _ => Memory.readByte_ofBytes, fun _ _ => Memory.readByte_ofBytes⟩

/-- Settles O49: a command outside R321's list takes one of the three empty registers (`exec_of_all_empty`). -/
theorem emptyMachineAcceptsOnlyTheseCommands : Obligations.EmptyMachineAcceptsOnlyTheseCommands := by
  intro i s t ht hc hd h
  refine or_iff_not_imp_left.mpr fun hi => ?_
  have hraise : raise .noValue s = .next t := (exec_of_all_empty ht hc hd hi).symm.trans h
  rw [raise_next.mp hraise]
  rfl

end
